-- ==== Sys2Proof/Word.lean ====
section
/-!
DEFINITION. The word types of the CHIP-8 interpreter core and nothing else (spec 00_scope.md R6, R8:
every value is unsigned).
-/

namespace Sys2Proof

/-- A byte: a general register, a memory cell or a timer (R6 REG_WIDTH, TIMER_WIDTH; R20). -/
abbrev Byte := BitVec 8

/-- A 16-bit value: `I`, `pc`, a return address or an instruction word (R6, R70). -/
abbrev Word := BitVec 16

/-- The 12-bit address field `nnn` of an instruction (R74). -/
abbrev Addr12 := BitVec 12

/-- A register number, 0 to 15 (R22: every number an instruction can form is in range). -/
abbrev RegNum := Fin 16

/-- The row count `n` of `Dxyn`, 0 to 15 (R74). -/
abbrev RowCount := Fin 16

/-- A display: 32 rows, top row first, each of 64 cells, left column first; a cell is on or off
(10_state.md R30, 45_display.md R190). -/
abbrev Display := Vector (Vector Bool 64) 32

end Sys2Proof
end

