-- ==== Sys2Proof/Syntax.lean ====
section
/-!
DEFINITION. The instructions of the core: one constructor per row of spec/opcode_table.json (30_encoding.md R79),
in the table's order, the catch-all last. Each carries its operand fields (R74) and nothing else.
-/

namespace Sys2Proof

/-- The 35 named instructions and the catch-all. -/
inductive Instr where
  /-- `0000` NOP (R100). -/
  | nop
  /-- `00E0` CLS (R101). -/
  | cls
  /-- `00EE` RET (R102). -/
  | ret
  /-- `1nnn` JP addr (R103). -/
  | jp (nnn : Addr12)
  /-- `2nnn` CALL addr (R104). -/
  | call (nnn : Addr12)
  /-- `3xnn` SE Vx, byte (R121). -/
  | seByte (x : RegNum) (nn : Byte)
  /-- `4xnn` SNE Vx, byte (R122). -/
  | sneByte (x : RegNum) (nn : Byte)
  /-- `5xy0` SE Vx, Vy (R123). -/
  | seReg (x y : RegNum)
  /-- `6xnn` LD Vx, byte (R141). -/
  | ldByte (x : RegNum) (nn : Byte)
  /-- `7xnn` ADD Vx, byte (R142). -/
  | addByte (x : RegNum) (nn : Byte)
  /-- `8xy0` LD Vx, Vy (R143). -/
  | ldReg (x y : RegNum)
  /-- `8xy1` OR Vx, Vy (R144). -/
  | orReg (x y : RegNum)
  /-- `8xy2` AND Vx, Vy (R145). -/
  | andReg (x y : RegNum)
  /-- `8xy3` XOR Vx, Vy (R146). -/
  | xorReg (x y : RegNum)
  /-- `8xy4` ADD Vx, Vy (R147). -/
  | addReg (x y : RegNum)
  /-- `8xy5` SUB Vx, Vy (R148). -/
  | subReg (x y : RegNum)
  /-- `8xy6` SHR Vx; `y` is encoded and ignored (R149). -/
  | shr (x y : RegNum)
  /-- `8xy7` SUBN Vx, Vy (R150). -/
  | subnReg (x y : RegNum)
  /-- `8xyE` SHL Vx; `y` is encoded and ignored (R151). -/
  | shl (x y : RegNum)
  /-- `9xy0` SNE Vx, Vy (R124). -/
  | sneReg (x y : RegNum)
  /-- `Annn` LD I, addr (R170). -/
  | ldI (nnn : Addr12)
  /-- `Bnnn` JP V0, addr (R105). -/
  | jpV0 (nnn : Addr12)
  /-- `Cxnn` RND Vx, byte (R152). -/
  | rnd (x : RegNum) (nn : Byte)
  /-- `Dxyn` DRW Vx, Vy, nibble (R191). -/
  | drw (x y : RegNum) (n : RowCount)
  /-- `Ex9E` SKP Vx (R125). -/
  | skp (x : RegNum)
  /-- `ExA1` SKNP Vx (R126). -/
  | sknp (x : RegNum)
  /-- `Fx07` LD Vx, DT (R210). -/
  | ldVxDt (x : RegNum)
  /-- `Fx0A` LD Vx, K (R211). -/
  | ldVxK (x : RegNum)
  /-- `Fx15` LD DT, Vx (R212). -/
  | ldDtVx (x : RegNum)
  /-- `Fx18` LD ST, Vx (R213). -/
  | ldStVx (x : RegNum)
  /-- `Fx1E` ADD I, Vx (R171). -/
  | addI (x : RegNum)
  /-- `Fx29` LD F, Vx (R172). -/
  | ldFont (x : RegNum)
  /-- `Fx33` LD B, Vx (R173). -/
  | ldBcd (x : RegNum)
  /-- `Fx55` LD [I], Vx (R174). -/
  | storeRegs (x : RegNum)
  /-- `Fx65` LD Vx, [I] (R175). -/
  | loadRegs (x : RegNum)
  /-- Any other word, which executes as a no-op (R86). It keeps its word so that no bit of an encoding is lost. -/
  | unrecognised (w : Word)
  deriving DecidableEq, Repr

end Sys2Proof
end

