-- ==== Sys2Proof/Decode.lean ====
section
/-!
DEFINITION. From bytes to instructions and back (spec 30_encoding.md).

`decode` follows R73 and the map by first nibble of R80, and is total: R87, no encoding is illegal and no word traps
by its bits alone. After it stand the machine-readable map of R79 and the encoder. Both are written from the spec's own
tables, not from the decoder.
-/

namespace Sys2Proof

/-- The instruction word of two bytes: the first byte is the high half (R56, R71). -/
def wordOf (b0 b1 : Byte) : Word := b0 ++ b1

/-- Nibble `a`, `w[15:12]` (R71). -/
def nibbleA (w : Word) : BitVec 4 := w.extractLsb' 12 4

/-- The register field `x`, `w[11:8]` (R74). -/
def fieldX (w : Word) : RegNum := (w.extractLsb' 8 4).toFin

/-- The register field `y`, `w[7:4]` (R74). -/
def fieldY (w : Word) : RegNum := (w.extractLsb' 4 4).toFin

/-- The count field `n`, `w[3:0]` (R74). -/
def fieldN (w : Word) : RowCount := (w.extractLsb' 0 4).toFin

/-- Nibble `d`, `w[3:0]` (R71), where it selects the operation. -/
def nibbleD (w : Word) : BitVec 4 := w.extractLsb' 0 4

/-- The immediate byte `nn`, `w[7:0]` (R74). -/
def fieldNN (w : Word) : Byte := w.extractLsb' 0 8

/-- The address `nnn`, `w[11:0]` (R74). -/
def fieldNNN (w : Word) : Addr12 := w.extractLsb' 0 12

/-- The group `a = 0`: three exact words (R80). -/
def decode0 (w : Word) : Instr :=
  if w = 0x0000 then .nop
  else if w = 0x00E0 then .cls
  else if w = 0x00EE then .ret
  else .unrecognised w

/-- The group `a = 5`: named only when `d = 0` (R80). -/
def decode5 (w : Word) : Instr :=
  if nibbleD w = 0x0 then .seReg (fieldX w) (fieldY w) else .unrecognised w

/-- The group `a = 8`: selected by `d` (R80). -/
def decode8 (w : Word) : Instr :=
  match (nibbleD w).toNat with
  | 0x0 => .ldReg (fieldX w) (fieldY w)
  | 0x1 => .orReg (fieldX w) (fieldY w)
  | 0x2 => .andReg (fieldX w) (fieldY w)
  | 0x3 => .xorReg (fieldX w) (fieldY w)
  | 0x4 => .addReg (fieldX w) (fieldY w)
  | 0x5 => .subReg (fieldX w) (fieldY w)
  | 0x6 => .shr (fieldX w) (fieldY w)
  | 0x7 => .subnReg (fieldX w) (fieldY w)
  | 0xE => .shl (fieldX w) (fieldY w)
  | _ => .unrecognised w

/-- The group `a = 9`: named only when `d = 0` (R80). -/
def decode9 (w : Word) : Instr :=
  if nibbleD w = 0x0 then .sneReg (fieldX w) (fieldY w) else .unrecognised w

/-- The group `a = E`: selected by the low byte (R80). -/
def decodeE (w : Word) : Instr :=
  match (fieldNN w).toNat with
  | 0x9E => .skp (fieldX w)
  | 0xA1 => .sknp (fieldX w)
  | _ => .unrecognised w

/-- The group `a = F`: selected by the low byte (R80). -/
def decodeF (w : Word) : Instr :=
  match (fieldNN w).toNat with
  | 0x07 => .ldVxDt (fieldX w)
  | 0x0A => .ldVxK (fieldX w)
  | 0x15 => .ldDtVx (fieldX w)
  | 0x18 => .ldStVx (fieldX w)
  | 0x1E => .addI (fieldX w)
  | 0x29 => .ldFont (fieldX w)
  | 0x33 => .ldBcd (fieldX w)
  | 0x55 => .storeRegs (fieldX w)
  | 0x65 => .loadRegs (fieldX w)
  | _ => .unrecognised w

/-- The instruction of a 16-bit word (R78, R80), by its first nibble. Every word decodes (R73). -/
def decodeWord (w : Word) : Instr :=
  match (nibbleA w).toNat with
  | 0x0 => decode0 w
  | 0x1 => .jp (fieldNNN w)
  | 0x2 => .call (fieldNNN w)
  | 0x3 => .seByte (fieldX w) (fieldNN w)
  | 0x4 => .sneByte (fieldX w) (fieldNN w)
  | 0x5 => decode5 w
  | 0x6 => .ldByte (fieldX w) (fieldNN w)
  | 0x7 => .addByte (fieldX w) (fieldNN w)
  | 0x8 => decode8 w
  | 0x9 => decode9 w
  | 0xA => .ldI (fieldNNN w)
  | 0xB => .jpV0 (fieldNNN w)
  | 0xC => .rnd (fieldX w) (fieldNN w)
  | 0xD => .drw (fieldX w) (fieldY w) (fieldN w)
  | 0xE => decodeE w
  | _ => decodeF w

/-- `Decode(b0, b1)` (R73): the instruction of two consecutive memory bytes. -/
def decode (b0 b1 : Byte) : Instr := decodeWord (wordOf b0 b1)

/-- Why a list of bytes is no instruction. No pattern of bits is a reason (R87). -/
inductive DecodeError where
  /-- Fewer than the 2 bytes that every instruction has (R70). Safe: the core itself never decodes one byte, its fetch
  reads two or faults (R72). -/
  | truncated
  deriving DecidableEq, Repr

/-- The first instruction of a list of bytes and the bytes after it (R70: exactly 2 bytes each). -/
def decodeBytes : List Byte → Except DecodeError (Instr × List Byte)
  | b0 :: b1 :: rest => .ok (decode b0 b1, rest)
  | _ => .error .truncated

/-- The instruction of the low `nbits` bits of `w`, numbered as spec/opcode_table.json numbers them: bit 0 is the least
significant bit of the 16-bit word, so the word's high byte is the byte the memory holds first (R71). -/
def decodeTableWord (nbits w : Nat) : Option Instr :=
  let word : Word := BitVec.ofNat 16 (w % 2 ^ nbits)
  match decodeBytes [word.extractLsb' 8 8, word.extractLsb' 0 8] with
  | .ok (i, _) => some i
  | .error _ => none

/-- A row of the opcode map (R79): it selects an instruction when `w &&& mask = bits`. -/
structure OpcodeRow where
  bits : Word
  mask : Word
  mnemonic : String
  deriving DecidableEq, Repr

/-- A row selects a word (R79). -/
def OpcodeRow.selects (r : OpcodeRow) (w : Word) : Bool := w &&& r.mask == r.bits

/-- The opcode map of R79, the named rows in its order, each under its mnemonic in spec/opcode_table.json. -/
def opcodeMap : List OpcodeRow :=
  [
   ⟨0x0000, 0xFFFF, "NOP"⟩,
   ⟨0x00E0, 0xFFFF, "CLS"⟩,
   ⟨0x00EE, 0xFFFF, "RET"⟩,
   ⟨0x1000, 0xF000, "JP_addr"⟩,
   ⟨0x2000, 0xF000, "CALL_addr"⟩,
   ⟨0x3000, 0xF000, "SE_Vx__byte"⟩,
   ⟨0x4000, 0xF000, "SNE_Vx__byte"⟩,
   ⟨0x5000, 0xF00F, "SE_Vx__Vy"⟩,
   ⟨0x6000, 0xF000, "LD_Vx__byte"⟩,
   ⟨0x7000, 0xF000, "ADD_Vx__byte"⟩,
   ⟨0x8000, 0xF00F, "LD_Vx__Vy"⟩,
   ⟨0x8001, 0xF00F, "OR_Vx__Vy"⟩,
   ⟨0x8002, 0xF00F, "AND_Vx__Vy"⟩,
   ⟨0x8003, 0xF00F, "XOR_Vx__Vy"⟩,
   ⟨0x8004, 0xF00F, "ADD_Vx__Vy"⟩,
   ⟨0x8005, 0xF00F, "SUB_Vx__Vy"⟩,
   ⟨0x8006, 0xF00F, "SHR_Vx____Vy"⟩,
   ⟨0x8007, 0xF00F, "SUBN_Vx__Vy"⟩] ++
  [
   ⟨0x800E, 0xF00F, "SHL_Vx____Vy"⟩,
   ⟨0x9000, 0xF00F, "SNE_Vx__Vy"⟩,
   ⟨0xA000, 0xF000, "LD_I__addr"⟩,
   ⟨0xB000, 0xF000, "JP_V0__addr"⟩,
   ⟨0xC000, 0xF000, "RND_Vx__byte"⟩,
   ⟨0xD000, 0xF000, "DRW_Vx__Vy__nibble"⟩,
   ⟨0xE09E, 0xF0FF, "SKP_Vx"⟩,
   ⟨0xE0A1, 0xF0FF, "SKNP_Vx"⟩,
   ⟨0xF007, 0xF0FF, "LD_Vx__DT"⟩,
   ⟨0xF00A, 0xF0FF, "LD_Vx__K"⟩,
   ⟨0xF015, 0xF0FF, "LD_DT__Vx"⟩,
   ⟨0xF018, 0xF0FF, "LD_ST__Vx"⟩,
   ⟨0xF01E, 0xF0FF, "ADD_I__Vx"⟩,
   ⟨0xF029, 0xF0FF, "LD_F__Vx"⟩,
   ⟨0xF033, 0xF0FF, "LD_B__Vx"⟩,
   ⟨0xF055, 0xF0FF, "LD__I___Vx"⟩,
   ⟨0xF065, 0xF0FF, "LD_Vx___I"⟩]

/-- The mnemonic of an instruction in spec/opcode_table.json. -/
def Instr.mnemonic : Instr → String
  | .nop => "NOP"
  | .cls => "CLS"
  | .ret => "RET"
  | .jp _ => "JP_addr"
  | .call _ => "CALL_addr"
  | .seByte _ _ => "SE_Vx__byte"
  | .sneByte _ _ => "SNE_Vx__byte"
  | .seReg _ _ => "SE_Vx__Vy"
  | .ldByte _ _ => "LD_Vx__byte"
  | .addByte _ _ => "ADD_Vx__byte"
  | .ldReg _ _ => "LD_Vx__Vy"
  | .orReg _ _ => "OR_Vx__Vy"
  | .andReg _ _ => "AND_Vx__Vy"
  | .xorReg _ _ => "XOR_Vx__Vy"
  | .addReg _ _ => "ADD_Vx__Vy"
  | .subReg _ _ => "SUB_Vx__Vy"
  | .shr _ _ => "SHR_Vx____Vy"
  | .subnReg _ _ => "SUBN_Vx__Vy"
  | .shl _ _ => "SHL_Vx____Vy"
  | .sneReg _ _ => "SNE_Vx__Vy"
  | .ldI _ => "LD_I__addr"
  | .jpV0 _ => "JP_V0__addr"
  | .rnd _ _ => "RND_Vx__byte"
  | .drw _ _ _ => "DRW_Vx__Vy__nibble"
  | .skp _ => "SKP_Vx"
  | .sknp _ => "SKNP_Vx"
  | .ldVxDt _ => "LD_Vx__DT"
  | .ldVxK _ => "LD_Vx__K"
  | .ldDtVx _ => "LD_DT__Vx"
  | .ldStVx _ => "LD_ST__Vx"
  | .addI _ => "ADD_I__Vx"
  | .ldFont _ => "LD_F__Vx"
  | .ldBcd _ => "LD_B__Vx"
  | .storeRegs _ => "LD__I___Vx"
  | .loadRegs _ => "LD_Vx___I"
  | .unrecognised _ => "(unrecognised)"

/-- A register number or a count as the 4 bits that encode it (R74). -/
def regBits (x : Fin 16) : BitVec 4 := BitVec.ofFin x

/-- The word of an instruction: the row's fixed nibbles with the fields in their places (R74, R79). -/
def encode : Instr → Word
  | .nop => 0x0000
  | .cls => 0x00E0
  | .ret => 0x00EE
  | .jp nnn => 0x1#4 ++ nnn
  | .call nnn => 0x2#4 ++ nnn
  | .seByte x nn => 0x3#4 ++ regBits x ++ nn
  | .sneByte x nn => 0x4#4 ++ regBits x ++ nn
  | .seReg x y => 0x5#4 ++ regBits x ++ regBits y ++ 0x0#4
  | .ldByte x nn => 0x6#4 ++ regBits x ++ nn
  | .addByte x nn => 0x7#4 ++ regBits x ++ nn
  | .ldReg x y => 0x8#4 ++ regBits x ++ regBits y ++ 0x0#4
  | .orReg x y => 0x8#4 ++ regBits x ++ regBits y ++ 0x1#4
  | .andReg x y => 0x8#4 ++ regBits x ++ regBits y ++ 0x2#4
  | .xorReg x y => 0x8#4 ++ regBits x ++ regBits y ++ 0x3#4
  | .addReg x y => 0x8#4 ++ regBits x ++ regBits y ++ 0x4#4
  | .subReg x y => 0x8#4 ++ regBits x ++ regBits y ++ 0x5#4
  | .shr x y => 0x8#4 ++ regBits x ++ regBits y ++ 0x6#4
  | .subnReg x y => 0x8#4 ++ regBits x ++ regBits y ++ 0x7#4
  | .shl x y => 0x8#4 ++ regBits x ++ regBits y ++ 0xE#4
  | .sneReg x y => 0x9#4 ++ regBits x ++ regBits y ++ 0x0#4
  | .ldI nnn => 0xA#4 ++ nnn
  | .jpV0 nnn => 0xB#4 ++ nnn
  | .rnd x nn => 0xC#4 ++ regBits x ++ nn
  | .drw x y n => 0xD#4 ++ regBits x ++ regBits y ++ regBits n
  | .skp x => 0xE#4 ++ regBits x ++ 0x9E#8
  | .sknp x => 0xE#4 ++ regBits x ++ 0xA1#8
  | .ldVxDt x => 0xF#4 ++ regBits x ++ 0x07#8
  | .ldVxK x => 0xF#4 ++ regBits x ++ 0x0A#8
  | .ldDtVx x => 0xF#4 ++ regBits x ++ 0x15#8
  | .ldStVx x => 0xF#4 ++ regBits x ++ 0x18#8
  | .addI x => 0xF#4 ++ regBits x ++ 0x1E#8
  | .ldFont x => 0xF#4 ++ regBits x ++ 0x29#8
  | .ldBcd x => 0xF#4 ++ regBits x ++ 0x33#8
  | .storeRegs x => 0xF#4 ++ regBits x ++ 0x55#8
  | .loadRegs x => 0xF#4 ++ regBits x ++ 0x65#8
  | .unrecognised w => w

/-- The two bytes of an instruction, the one at the lower address first (R56). -/
def encodeBytes (i : Instr) : List Byte :=
  [(encode i).extractLsb' 8 8, (encode i).extractLsb' 0 8]

end Sys2Proof
end

