-- ==== Sys2Proof/Config.lean ====
section
/-!
DEFINITION. What a build of the core fixes (spec 00_scope.md R6, R7) and the values the spec leaves free
(60_exceptions.md R232, R257).

The FIXED parameters of R6 are plain numbers. The OPEN parameters of R7 (FONT, STACK_CAPACITY,
INDEX_ADD_OVERFLOW) form the structure `Config.Params`: a state carries one, so that every statement holds for
every build, and `Config.defaults` is the build with the defaults the spec chooses. Beside them stands which of the
spec's two accounts of the stack faults' FAULT_INFO the build follows (log entry 8). CYCLE_BUDGET is not modelled:
R4 leaves wall-clock pacing out of scope.

The FREE VALUES are opaque constants: nothing in Lean can evaluate them or prove a value of one.
-/

namespace Sys2Proof

/-- MEM_SIZE (R6): addresses 0 to 0xFFF. -/
def Config.memSize : Nat := 0x1000

/-- PROG_BASE (R6): where the program image is loaded and where the first fetch goes. -/
def Config.progBase : Nat := 0x200

/-- MAX_PROG_LEN (R6, R61): 3584 bytes. -/
def Config.maxProgLen : Nat := 3584

/-- FONT_SIZE (R6): the glyph font takes the addresses 0 to 79. -/
def Config.fontSize : Nat := 80

/-- GLYPH_BYTES (R6): each glyph has 5 rows. -/
def Config.glyphBytes : Nat := 5

/-- The number of display cells (R6, R190): 64 columns in 32 rows. -/
def Config.displayCells : Nat := 2048

/-- TIMER_CADENCE (R6, R250): cycles per timer decrement. -/
def Config.timerCadence : Nat := 10

/-- INDEX_ADD_OVERFLOW (R7): what `Fx1E` does when `I + V[x]` exceeds 0xFFFF. -/
inductive Config.IndexAddOverflow where
  /-- The sum is reduced modulo 0x10000. -/
  | wrap
  /-- The cycle faults INDEX_OVERFLOW. -/
  | fault
  deriving DecidableEq, Repr

/-- What FAULT_INFO records for the two stack faults, of which the spec gives two accounts and its 90_conflicts.md no
ruling (DESIGN CHOICE, log entry 8: the model has both). -/
inductive Config.StackFaultInfo where
  /-- The value of the fault's row in 60_exceptions.md R231, to which R37 refers: 0 for STACK_UNDERFLOW, the capacity
  for STACK_OVERFLOW (so the vector J8 too). -/
  | tableRow
  /-- The fetch address `a`: the second argument of `Fatal(STACK_UNDERFLOW, a)` and `Fatal(STACK_OVERFLOW, a)`
  (41_flow.md R102, R104), which R232 puts into FAULT_INFO. -/
  | fetchAddress
  deriving DecidableEq, Repr

/-- The parameters the source leaves open (R7), and one for a point on which the spec's files differ. They are fixed for
a build: no cycle and no host action changes them. -/
structure Config.Params where
  /-- FONT: the 80 bytes at the addresses 0 to 79 (R27). -/
  font : Vector Byte 80
  /-- STACK_CAPACITY: the most return addresses the stack holds, `none` for UNBOUNDED (R29). -/
  stackCapacity : Option Nat
  /-- INDEX_ADD_OVERFLOW (R171). -/
  indexAddOverflow : Config.IndexAddOverflow
  /-- MODEL'S OWN, no parameter of R7: what FAULT_INFO records for a stack fault (log entry 8). -/
  stackFaultInfo : Config.StackFaultInfo
  deriving DecidableEq, Repr

/-- The default FONT (R27): the conventional hexadecimal font, the glyph of digit d at 5d (PRESUMED, log entry 6). -/
def Config.defaultFont : Vector Byte 80 := #v[
  0xF0, 0x90, 0x90, 0x90, 0xF0,
  0x20, 0x60, 0x20, 0x20, 0x70,
  0xF0, 0x10, 0xF0, 0x80, 0xF0,
  0xF0, 0x10, 0xF0, 0x10, 0xF0,
  0x90, 0x90, 0xF0, 0x10, 0x10,
  0xF0, 0x80, 0xF0, 0x10, 0xF0,
  0xF0, 0x80, 0xF0, 0x90, 0xF0,
  0xF0, 0x10, 0x20, 0x40, 0x40,
  0xF0, 0x90, 0xF0, 0x90, 0xF0,
  0xF0, 0x90, 0xF0, 0x10, 0xF0,
  0xF0, 0x90, 0xF0, 0x90, 0x90,
  0xE0, 0x90, 0xE0, 0x90, 0xE0,
  0xF0, 0x80, 0x80, 0x80, 0xF0,
  0xE0, 0x90, 0x90, 0x90, 0xE0,
  0xF0, 0x80, 0xF0, 0x80, 0xF0,
  0xF0, 0x80, 0xF0, 0x80, 0x80]

/-- The build with the defaults of R7: the conventional font, an unbounded stack, a wrapping `Fx1E`; and with R231's
account of the stack faults, which the vector J8 follows. -/
def Config.defaults : Config.Params where
  font := Config.defaultFont
  stackCapacity := none
  indexAddOverflow := .wrap
  stackFaultInfo := .tableRow

/-- What a memory byte holds after a reset with an empty image (R41, R60): the font at 0 to 79, zero elsewhere.
It is also what an address reads as that the memory list does not name. -/
def Config.resetByte (font : Vector Byte 80) (a : Nat) : Byte :=
  if h : a < 80 then font[a] else 0

/-- FREE: the random byte of the cycle that takes the free value number `n` (R257: "under no law"). -/
opaque Config.randByte : Nat → Byte

/-- FREE: the byte a fault leaves at address `a` (R232: MEM becomes UNSPECIFIED). -/
opaque Config.unspecMem : Nat → Nat → Byte

/-- FREE: the general registers a fault leaves (R232). -/
opaque Config.unspecV : Nat → Vector Byte 16

/-- FREE: the index register a fault leaves (R232). -/
opaque Config.unspecI : Nat → Word

/-- FREE: the program counter a fault leaves (R232). -/
opaque Config.unspecPc : Nat → Word

/-- FREE: the return-address stack a fault leaves (R232). -/
opaque Config.unspecStack : Nat → List Word

/-- FREE: the display a fault leaves (R232). -/
opaque Config.unspecDisp : Nat → Display

/-- FREE: the delay timer a fault leaves (R232). -/
opaque Config.unspecDt : Nat → Byte

/-- FREE: the sound timer a fault leaves (R232). -/
opaque Config.unspecSt : Nat → Byte

/-- FREE: the cadence counter a fault leaves (R232), within its range (R36: 0 to 9). -/
opaque Config.unspecCadence : Nat → Fin 10

/-- FREE: what FAULT_INFO holds when the value to record does not fit its 32 bits (R37 gives the register's width
and no rule says what a wider value leaves there). -/
opaque Config.unspecInfo : Nat → Nat → BitVec 32

end Sys2Proof
end

