-- ==== Sys2Proof/Machine/State.lean ====
section
/-!
DEFINITION. The state of the core (spec 10_state.md R20, one field per line of its table), the reasons a step could
end outside it, and the state after reset (R41, R270).
-/

namespace Sys2Proof.Machine

/-- The state. The fields down to `faultInfo` are the architectural state of R20. The last three are the MODEL'S OWN:
`exec` and `step` take nothing but a state, so what R21 calls parameters and inputs of a step stands here as plain
data (DESIGN CHOICE, log entries 2 and 3). -/
structure State where
  /-- `MEM` (R27, R50): the bytes that differ from the reset contents (`Config.resetByte`), by rising address. -/
  mem : List Host.Cell
  /-- `V[0..15]`, the general registers (R22). -/
  v : Vector Byte 16
  /-- `I`, the index register (R28). -/
  i : Word
  /-- `pc`, the program counter (R25). -/
  pc : Word
  /-- `STACK`, the return addresses, the last one the top (R11, R29). -/
  stack : List Word
  /-- `DISP`, the display buffer (R30). -/
  disp : Display
  /-- `KEYS`, the key-held flags (R31). -/
  keys : Vector Bool 16
  /-- `DT`, the delay timer (R32). -/
  dt : Byte
  /-- `ST`, the sound timer (R33). -/
  st : Byte
  /-- `CADENCE`, the cadence counter (R34). -/
  cadence : Fin 10
  /-- `FAULT_CODE` (R37): 0 while the core runs. -/
  faultCode : BitVec 4
  /-- `FAULT_PC` (R37). -/
  faultPc : Word
  /-- `FAULT_INFO` (R37). -/
  faultInfo : BitVec 32
  /-- MODEL'S OWN: the build's parameters (R7, R21). Nothing changes them. -/
  params : Config.Params
  /-- MODEL'S OWN: the random byte the host passed with the current `Step` (R257), an input of the cycle. -/
  rand : Byte
  /-- MODEL'S OWN: the number of the next free value (`Config.randByte`, `Config.unspecMem`, …). -/
  freeIx : Nat
  deriving DecidableEq, Repr

/-- Reasons for a step to end without a next state, as a fault. There is NONE: the spec gives every fatal condition
an effect (60_exceptions.md R232: the fault status is recorded, the rest becomes unspecified, the core halts) and a
halted core's `Step` an effect too (R233: it changes nothing), so each of them is a next state. -/
inductive Fault where
  deriving DecidableEq, Repr

/-- Reasons for a refusal. -/
inductive Refusal where
  /-- Raised by an arm of `exec` whose instruction has no meaning yet. No arm does. Safe. -/
  | notModelled (mnemonic : String)
  /-- Raised by the read port `ReadPixel(k)` for `k ≥ 2048` (45_display.md R194: "refused (the port has no such
  cell)"), never by an instruction or a step. Safe. -/
  | noSuchPixel (k : Nat)
  deriving DecidableEq, Repr

/-- What a step answers. -/
abbrev Result := Host.Outcome State Fault Refusal

/-- The state after `Reset` with an empty image and the default parameters (R41, R270). `V`, `I`, `STACK`, `DISP`,
`KEYS`, `DT`, `ST`, `CADENCE` are the spec's decision D3; the memory lists nothing (DESIGN CHOICE, log entries 2, 3,
5 and 6). -/
def State.reset : State where
  mem := []
  v := Vector.replicate 16 0
  i := 0
  pc := 0x200
  stack := []
  disp := Vector.replicate 32 (Vector.replicate 64 false)
  keys := Vector.replicate 16 false
  dt := 0
  st := 0
  cadence := 0
  faultCode := 0
  faultPc := 0
  faultInfo := 0
  params := Config.defaults
  rand := 0
  freeIx := 0

end Sys2Proof.Machine
end

