-- ==== Sys2Proof/Machine/Flags.lean ====
section
/-!
DEFINITION. Every value written into VF as a flag (spec 10_state.md R35; 43_alu.md R147 to R151), and the 8-bit results
beside them (R140). The flags are computed from the operands as natural numbers; the core has no other flag.
-/

namespace Sys2Proof.Machine

/-- A flag as VF holds it: 1 or 0. -/
def flagByte (b : Bool) : Byte := if b then 1 else 0

/-- The carry of `p + q`: 1 if the exact sum is 256 or more (R147). -/
def carry (p q : Byte) : Byte := flagByte (decide (256 ≤ p.toNat + q.toNat))

/-- NOT borrow of `p − q`: 1 if `p ≥ q`, equal operands included (R148, R150). -/
def noBorrow (p q : Byte) : Byte := flagByte (decide (q.toNat ≤ p.toNat))

/-- The bit a right shift by one shifts out: bit 0 (R149). -/
def bitOutRight (p : Byte) : Byte := p &&& 1

/-- The bit a left shift by one shifts out: bit 7 (R151). -/
def bitOutLeft (p : Byte) : Byte := p >>> 7

/-- The sum modulo 256 (R140). -/
def sum8 (p q : Byte) : Byte := BitVec.ofNat 8 (p.toNat + q.toNat)

/-- The difference modulo 256: `p − q`, or `p − q + 256` when `q > p` (R140). -/
def diff8 (p q : Byte) : Byte := BitVec.ofNat 8 (p.toNat + 256 - q.toNat)

/-- The logical right shift by one (R140: bit 7 becomes 0). -/
def shiftRight8 (p : Byte) : Byte := p >>> 1

/-- The left shift by one modulo 256 (R140). -/
def shiftLeft8 (p : Byte) : Byte := p <<< 1

end Sys2Proof.Machine
end

