-- ==== Sys2Proof/Machine/Operands.lean ====
section
/-!
DEFINITION. The operand forms of the core (spec 30_encoding.md R75) and the register accessors every meaning reads and
writes through: `V[x]`, `VF`, `I`, `pc`, `DT`, `ST`, `KEYS`, the display cells, the zero-extended immediates, and the
values computed from them (effective addresses, glyph addresses, decimal digits, pixel indexes).
-/

namespace Sys2Proof.Machine

/-- VF, register 15 (R11, R24). -/
def vf : RegNum := 15

/-- `V[x]` (R11, R22: sixteen plain registers, none hardwired). -/
def State.getV (s : State) (x : RegNum) : Byte := s.v[x.val]

/-- `V[x] <- b`. -/
def State.setV (s : State) (x : RegNum) (b : Byte) : State := { s with v := s.v.set x.val b }

/-- `I <- w`. -/
def State.setI (s : State) (w : Word) : State := { s with i := w }

/-- `pc <- w`. -/
def State.setPc (s : State) (w : Word) : State := { s with pc := w }

/-- `STACK <- l`. -/
def State.setStack (s : State) (l : List Word) : State := { s with stack := l }

/-- `DT <- b`. -/
def State.setDt (s : State) (b : Byte) : State := { s with dt := b }

/-- `ST <- b`. -/
def State.setSt (s : State) (b : Byte) : State := { s with st := b }

/-- `CADENCE <- c`. -/
def State.setCadence (s : State) (c : Fin 10) : State := { s with cadence := c }

/-- `DISP <- d`. -/
def State.setDisp (s : State) (d : Display) : State := { s with disp := d }

/-- `KEYS <- k`. -/
def State.setKeyFlags (s : State) (k : Vector Bool 16) : State := { s with keys := k }

/-- `KEYS[k]` (R31). -/
def State.key (s : State) (k : RegNum) : Bool := s.keys[k.val]

/-- `DISP[k]`, the cell at column `k mod 64` of row `k div 64` (R30, R190). -/
def Display.cell (d : Display) (k : Fin 2048) : Bool :=
  (d[k.val / 64]'(by omega))[k.val % 64]'(by omega)

/-- `DISP[k] <- not DISP[k]`. -/
def Display.toggle (d : Display) (k : Fin 2048) : Display :=
  d.set (k.val / 64)
    ((d[k.val / 64]'(by omega)).set (k.val % 64) (!Display.cell d k) (by omega)) (by omega)

/-- The display with every cell off. -/
def Display.blank : Display := Vector.replicate 32 (Vector.replicate 64 false)

/-- All 2048 cells in index order. -/
def Display.cells (d : Display) : List Bool := d.toList.flatMap Vector.toList

/-- `zext_16(nnn)` (R75: an address is zero-extended and never scaled). -/
def addr (nnn : Addr12) : Word := nnn.setWidth 16

/-- The effective address `I + k`, an unbounded natural (R55, R176). -/
def State.ea (s : State) (k : Nat) : Nat := s.i.toNat + k

/-- `zext_16(V[x]) * 5`, the address `Fx29` computes; the register is not masked (R172). -/
def glyphAddr (b : Byte) : Word := BitVec.ofNat 16 (b.toNat * Config.glyphBytes)

/-- The decimal digits of a byte, hundreds, tens and ones (R173). -/
def bcdDigits (b : Byte) : List Byte :=
  [BitVec.ofNat 8 (b.toNat / 100), BitVec.ofNat 8 (b.toNat / 10 % 10), BitVec.ofNat 8 (b.toNat % 10)]

/-- The registers `V[0]` to `V[x]` in order (R174). -/
def State.regsUpTo (s : State) (x : RegNum) : List Byte := s.v.toList.take (x.val + 1)

/-- Registers from number `k` on take the bytes of a list, in order. -/
def loadV : Nat → List Byte → Vector Byte 16 → Vector Byte 16
  | _, [], v => v
  | k, b :: bs, v => loadV (k + 1) bs (v.setIfInBounds k b)

/-- The linear index `(ox + col) + 64 * (oy + row)` of a sprite pixel, a natural number with no wrap of any kind
(R192). -/
def linearIndex (ox oy col row : Nat) : Nat := (ox + col) + 64 * (oy + row)

/-- The pixel of a sprite byte at column `col`, most significant bit first (R191: `bits[7 − col]`). -/
def spriteBit (bits : Byte) (col : Nat) : Bool := bits.getLsbD (7 - col)

/-- The lowest-numbered held key from `k` on, searching `n` keys (R211: ascending order, the first held key). -/
def firstHeldFrom (keys : Vector Bool 16) : Nat → Nat → Option Nat
  | _, 0 => none
  | k, n + 1 => if keys[k]?.getD false then some k else firstHeldFrom keys (k + 1) n

/-- The lowest-numbered held key, if any is held (R211). -/
def State.firstHeld (s : State) : Option Nat := firstHeldFrom s.keys 0 16

end Sys2Proof.Machine
end

