-- ==== Sys2Proof/Machine/Alu.lean ====
section
/-!
DEFINITION. Register loads, arithmetic, logic and the random instruction (spec 43_alu.md). None of them changes `pc`,
touches memory or faults. The clauses run in the order written (R14), which decides VF when `x = F`: the sums write the
flag last, the shifts write it first.
-/

namespace Sys2Proof.Machine

/-- LD Vx, byte (R141). -/
def execLdByte (x : RegNum) (nn : Byte) (s : State) : Result := .next (s.setV x nn)

/-- ADD Vx, byte (R142): no flag. -/
def execAddByte (x : RegNum) (nn : Byte) (s : State) : Result := .next (s.setV x (sum8 (s.getV x) nn))

/-- LD Vx, Vy (R143). -/
def execLdReg (x y : RegNum) (s : State) : Result := .next (s.setV x (s.getV y))

/-- OR Vx, Vy (R144): VF is not reset. -/
def execOrReg (x y : RegNum) (s : State) : Result := .next (s.setV x (s.getV x ||| s.getV y))

/-- AND Vx, Vy (R145). -/
def execAndReg (x y : RegNum) (s : State) : Result := .next (s.setV x (s.getV x &&& s.getV y))

/-- XOR Vx, Vy (R146). -/
def execXorReg (x y : RegNum) (s : State) : Result := .next (s.setV x (s.getV x ^^^ s.getV y))

/-- ADD Vx, Vy (R147): the sum, then the carry into VF, both from the operands as they were. -/
def execAddReg (x y : RegNum) (s : State) : Result :=
  let p := s.getV x
  let q := s.getV y
  .next ((s.setV x (sum8 p q)).setV vf (carry p q))

/-- SUB Vx, Vy (R148): `V[x] − V[y]`, then NOT borrow into VF. -/
def execSubReg (x y : RegNum) (s : State) : Result :=
  let p := s.getV x
  let q := s.getV y
  .next ((s.setV x (diff8 p q)).setV vf (noBorrow p q))

/-- SHR Vx (R149): VF takes the bit shifted out FIRST, then `V[x]` as it then stands is shifted. -/
def execShr (x _y : RegNum) (s : State) : Result :=
  let t := s.setV vf (bitOutRight (s.getV x))
  .next (t.setV x (shiftRight8 (t.getV x)))

/-- SUBN Vx, Vy (R150): `V[y] − V[x]`, then NOT borrow into VF. -/
def execSubnReg (x y : RegNum) (s : State) : Result :=
  let p := s.getV x
  let q := s.getV y
  .next ((s.setV x (diff8 q p)).setV vf (noBorrow q p))

/-- SHL Vx (R151): VF takes the bit shifted out FIRST, then `V[x]` as it then stands is shifted. -/
def execShl (x _y : RegNum) (s : State) : Result :=
  let t := s.setV vf (bitOutLeft (s.getV x))
  .next (t.setV x (shiftLeft8 (t.getV x)))

/-- RND Vx, byte (R152): the random byte of this cycle, masked. -/
def execRnd (x : RegNum) (nn : Byte) (s : State) : Result := .next (s.setV x (s.rand &&& nn))

end Sys2Proof.Machine
end

