-- ==== Sys2Proof/Machine/Memory.lean ====
section
/-!
DEFINITION. The memory as a list of (address, byte) cells in one canonical form: addresses strictly rising and below
4096, and no cell equal to what an unlisted address reads as. `base` is that reading, the reset contents (spec
20_memory.md R60; 10_state.md R41). The operations here check no range: the range checks are `memRead`
and `memWrite` of Ops.lean (R53, R54).
-/

namespace Sys2Proof.Machine

/-- The byte at an address: the listed one, else the reset contents. -/
def Memory.read (base : Nat → Byte) : List Host.Cell → Nat → Byte
  | [], a => base a
  | (b, w) :: rest, a => if a = b then w else Memory.read base rest a

/-- Store a byte, keeping the canonical form: storing what an unlisted address reads as removes the cell. -/
def Memory.write (base : Nat → Byte) : List Host.Cell → Nat → Byte → List Host.Cell
  | [], a, v => if v = base a then [] else [(a, v)]
  | (b, w) :: rest, a, v =>
    if a < b then (if v = base a then (b, w) :: rest else (a, v) :: (b, w) :: rest)
    else if a = b then (if v = base a then rest else (a, v) :: rest)
    else (b, w) :: Memory.write base rest a v

/-- The canonical form, for cells at addresses from `lo` on. -/
def Memory.wfFrom (base : Nat → Byte) : Nat → List Host.Cell → Bool
  | _, [] => true
  | lo, (a, v) :: rest =>
    decide (lo ≤ a) && decide (a < Config.memSize) && decide (v ≠ base a) && Memory.wfFrom base (a + 1) rest

/-- The canonical form of a memory. -/
def Memory.wf (base : Nat → Byte) (m : List Host.Cell) : Bool := Memory.wfFrom base 0 m

/-- The cells at the addresses `lo .. lo + n − 1` of the memory whose byte at `a` is `f a`. -/
def Memory.ofBytesFrom (base f : Nat → Byte) : Nat → Nat → List Host.Cell
  | _, 0 => []
  | lo, n + 1 =>
    if f lo = base lo then Memory.ofBytesFrom base f (lo + 1) n
    else (lo, f lo) :: Memory.ofBytesFrom base f (lo + 1) n

/-- The memory whose byte at each address `a` is `f a`. -/
def Memory.ofBytes (base f : Nat → Byte) : List Host.Cell := Memory.ofBytesFrom base f 0 Config.memSize

/-- Store bytes at consecutive addresses, without a range check (for the program load, R270). -/
def Memory.writeAll (base : Nat → Byte) : List Host.Cell → Nat → List Byte → List Host.Cell
  | m, _, [] => m
  | m, a, b :: bs => Memory.writeAll base (Memory.write base m a b) (a + 1) bs

/-- What an unlisted address reads as in this state: the reset contents of its build (R27, R41, R60). -/
def State.resetByte (s : State) (a : Nat) : Byte := Config.resetByte s.params.font a

/-- The byte at an address (R20 `MEM[0..4095]`), for addresses up to 0xFFF. -/
def State.byteAt (s : State) (a : Nat) : Byte := Memory.read s.resetByte s.mem a

/-- The state's memory is in canonical form. -/
def State.memWf (s : State) : Bool := Memory.wf s.resetByte s.mem

/-- `MEM[a] <- b`, with no range check: `memWrite` makes it (R54). -/
def State.setByte (s : State) (a : Nat) (b : Byte) : State :=
  { s with mem := Memory.write s.resetByte s.mem a b }

end Sys2Proof.Machine
end

