-- ==== Sys2Proof/Machine/Ops.lean ====
section
/-!
DEFINITION. The operations the instructions share: raising a fault, the memory primitives, the stack, the skip, the
fetch and the timer tick.

An operation that can raise a fault answers `Except Fatal _`. A meaning turns that into a next state with `complete`.
-/

namespace Sys2Proof.Machine

/-- The fault codes of 60_exceptions.md R231, NONE apart. -/
inductive FaultCode where
  /-- A fetch at `a` with `a + 1 > 0xFFF` (R72). -/
  | fetchOutOfRange
  /-- `00EE` with an empty stack (R102). -/
  | stackUnderflow
  /-- `2nnn` with the stack at its finite capacity (R104). -/
  | stackOverflow
  /-- A data access above 0xFFF (R53, R54). -/
  | memOutOfRange
  /-- A pixel index of 2048 or more (R192). -/
  | displayOutOfRange
  /-- A key number above 15 (R125, R126). -/
  | keyOutOfRange
  /-- A program image longer than 3584 bytes (R272). -/
  | programTooLarge
  /-- `I + V[x] > 0xFFFF` in a build where that faults (R171). -/
  | indexOverflow
  deriving DecidableEq, Repr

/-- The number of a fault code, as FAULT_CODE holds it (R231). -/
def faultNumber : FaultCode → BitVec 4
  | .fetchOutOfRange => 1
  | .stackUnderflow => 2
  | .stackOverflow => 3
  | .memOutOfRange => 4
  | .displayOutOfRange => 5
  | .keyOutOfRange => 6
  | .programTooLarge => 7
  | .indexOverflow => 8

/-- `Fatal(code, info)` (R13, R231). -/
structure Fatal where
  code : FaultCode
  info : Nat
  deriving DecidableEq, Repr

/-- The fault status says that the core runs (R37). -/
def State.running (s : State) : Bool := s.faultCode == 0

/-- A value as FAULT_INFO holds it (R37: 32 bits). No rule says what a value of more bits leaves there, so then it is
free (DESIGN CHOICE, log entry 7). -/
def infoWord (freeIx info : Nat) : BitVec 32 :=
  if info < 2 ^ 32 then BitVec.ofNat 32 info else Config.unspecInfo freeIx info

/-- TAKING A FAULT (R232), in the cycle whose fetch address is `a`, or with `a = 0` for PROGRAM_TOO_LARGE: the fault
status is recorded, KEYS keeps what the host wrote, and every other piece of state becomes UNSPECIFIED, a free value
each (DESIGN CHOICE, log entry 4). No state is saved and control goes nowhere (R236); the core is halted from here on (R233). -/
def takeFault (f : Fatal) (a : Word) (s : State) : State where
  faultCode := faultNumber f.code
  faultPc := a
  faultInfo := infoWord s.freeIx f.info
  keys := s.keys
  mem := Memory.ofBytes s.resetByte (Config.unspecMem s.freeIx)
  v := Config.unspecV s.freeIx
  i := Config.unspecI s.freeIx
  pc := Config.unspecPc s.freeIx
  stack := Config.unspecStack s.freeIx
  disp := Config.unspecDisp s.freeIx
  dt := Config.unspecDt s.freeIx
  st := Config.unspecSt s.freeIx
  cadence := Config.unspecCadence s.freeIx
  params := s.params
  rand := s.rand
  freeIx := s.freeIx + 1

/-- The fetch address of the instruction an execute step belongs to: the fetch has set `pc` to it plus 2 (R16, R76;
DEDUCED, log entry 9). -/
def State.fetchPc (s : State) : Word := s.pc - 2

/-- The end of an execute step that began in `s`: the state it reached, or the fault it raised, taken (R13, R232). -/
def complete (s : State) : Except Fatal State → Result
  | .ok t => .next t
  | .error f => .next (takeFault f s.fetchPc s)

/-- `MemRead(addr, 1)` (R53). -/
def memRead (s : State) (a : Nat) : Except Fatal Byte :=
  if 0xFFF < a then .error ⟨.memOutOfRange, a⟩ else .ok (s.byteAt a)

/-- `MemWrite(addr, 1, v)` (R54): every address up to 0xFFF is writable, the font too (R62). -/
def memWrite (s : State) (a : Nat) (b : Byte) : Except Fatal State :=
  if 0xFFF < a then .error ⟨.memOutOfRange, a⟩ else .ok (s.setByte a b)

/-- `MemWrite` of each byte of a list at ascending addresses; the first address out of range is the fault (R235). -/
def storeBytes : Nat → List Byte → State → Except Fatal State
  | _, [], s => .ok s
  | a, b :: bs, s =>
    match memWrite s a b with
    | .ok t => storeBytes (a + 1) bs t
    | .error f => .error f

/-- `MemRead` of `n` bytes at ascending addresses; the first address out of range is the fault (R235). -/
def readBytes (s : State) : Nat → Nat → Except Fatal (List Byte)
  | _, 0 => .ok []
  | a, n + 1 =>
    match memRead s a with
    | .error f => .error f
    | .ok b =>
      match readBytes s (a + 1) n with
      | .ok bs => .ok (b :: bs)
      | .error f => .error f

/-- The info value of a stack fault: the value of the fault's row in R231, or the fetch address, by the account that the
build follows (R37, R231; R102, R104, R232; DESIGN CHOICE, log entry 8). -/
def stackFaultValue (s : State) (rowValue : Nat) : Nat :=
  match s.params.stackFaultInfo with
  | .tableRow => rowValue
  | .fetchAddress => s.fetchPc.toNat

/-- `push(w)` onto STACK, or STACK_OVERFLOW at a finite capacity (R29, R104). -/
def push (s : State) (w : Word) : Except Fatal State :=
  match s.params.stackCapacity with
  | some cap =>
    if s.stack.length = cap then .error ⟨.stackOverflow, stackFaultValue s cap⟩
    else .ok (s.setStack (s.stack ++ [w]))
  | none => .ok (s.setStack (s.stack ++ [w]))

/-- `pop()` from STACK: the last element and the state without it, or STACK_UNDERFLOW (R29, R102). -/
def pop (s : State) : Except Fatal (Word × State) :=
  match s.stack.getLast? with
  | some w => .ok (w, s.setStack s.stack.dropLast)
  | none => .error ⟨.stackUnderflow, stackFaultValue s 0⟩

/-- `Skip()` (R120): 2 beyond the fetch advance. -/
def skip (s : State) : State := s.setPc (s.pc + 2)

/-- A conditional skip (R120: exactly when the condition holds). -/
def skipIf (c : Bool) (s : State) : State := if c then skip s else s

/-- The flag of key number `k`, or KEY_OUT_OF_RANGE (R125, R126). -/
def keyHeld (s : State) (k : Nat) : Except Fatal Bool :=
  if h : k < 16 then .ok (s.key ⟨k, h⟩) else .error ⟨.keyOutOfRange, k⟩

/-- Toggle the cell of linear index `k`, or DISPLAY_OUT_OF_RANGE (R191, R192). -/
def togglePixel (k : Nat) (d : Display) : Except Fatal Display :=
  if h : k < 2048 then .ok (Display.toggle d ⟨k, h⟩) else .error ⟨.displayOutOfRange, k⟩

/-- The pixels of one sprite row at the columns listed, in order; a clear bit computes no index (R191). -/
def drawRow (ox oy row : Nat) (bits : Byte) : List Nat → Display → Except Fatal Display
  | [], d => .ok d
  | col :: cols, d =>
    if spriteBit bits col then
      match togglePixel (linearIndex ox oy col row) d with
      | .ok d' => drawRow ox oy row bits cols d'
      | .error f => .error f
    else drawRow ox oy row bits cols d

/-- The sprite rows listed, in order, each row's byte read before its pixels (R191, R235). Drawing writes no memory, so
every byte is read from the state the instruction began in. -/
def drawRows (s : State) (ox oy : Nat) : List Nat → Display → Except Fatal Display
  | [], d => .ok d
  | row :: rows, d =>
    match memRead s (s.ea row) with
    | .error f => .error f
    | .ok bits =>
      match drawRow ox oy row bits (List.range 8) d with
      | .ok d' => drawRows s ox oy rows d'
      | .error f => .error f

/-- `Fetch(a)` at `a = pc` (R72): the two bytes, or FETCH_OUT_OF_RANGE. No alignment is required (R57). -/
def fetch (s : State) : Except Fatal (Byte × Byte) :=
  if 0xFFF < s.pc.toNat + 1 then .error ⟨.fetchOutOfRange, s.pc.toNat⟩
  else .ok (s.byteAt s.pc.toNat, s.byteAt (s.pc.toNat + 1))

/-- `pc <- a + 2` after the fetch and before the execute step (R76). -/
def advance (s : State) : State := s.setPc (s.pc + 2)

/-- A timer's decrement: down to zero, never below (R251). -/
def countDown (t : Byte) : Byte := if t = 0 then 0 else t - 1

/-- `TimerTick()` (R250): CADENCE counts the cycle, and the tenth decrements both timers and starts again. -/
def timerTick (s : State) : State :=
  if h : s.cadence.val + 1 < Config.timerCadence then s.setCadence ⟨s.cadence.val + 1, h⟩
  else ((s.setDt (countDown s.dt)).setSt (countDown s.st)).setCadence 0

/-- A new cycle of a running core takes its random byte and moves on to the next free value (R257). -/
def beginCycle (rand : Byte) (s : State) : State := { s with rand := rand, freeIx := s.freeIx + 1 }

/-- The end of a cycle: the timer tick, unless the cycle raised a fault (R77, R232). -/
def endCycle (s : State) : State := if s.running then timerTick s else s

/-- An instruction word stored where the core fetches next, its high byte first (R56). Where `pc` leaves no room for two
bytes, nothing is stored. -/
def placeWord (s : State) (w : Word) : State :=
  if 0xFFF < s.pc.toNat + 1 then s
  else (s.setByte s.pc.toNat (w.extractLsb' 8 8)).setByte (s.pc.toNat + 1) (w.extractLsb' 0 8)

end Sys2Proof.Machine
end

