-- ==== Sys2Proof/Machine/Draw.lean ====
section
/-!
DEFINITION. The display instruction (spec 45_display.md).
-/

namespace Sys2Proof.Machine

/-- DRW Vx, Vy, nibble (R191, R192): toggle the pixels of the set bits of `n` rows from `I` on, origin
(`V[x]`, `V[y]`), with no wrap and no clipping, or MEM_OUT_OF_RANGE, or DISPLAY_OUT_OF_RANGE, whichever comes first in
the drawing's order. VF is not written (R193). -/
def execDrw (x y : RegNum) (n : RowCount) (s : State) : Result :=
  complete s <|
    match drawRows s (s.getV x).toNat (s.getV y).toNat (List.range n.val) s.disp with
    | .ok d => .ok (s.setDisp d)
    | .error f => .error f

end Sys2Proof.Machine
end

