-- ==== Sys2Proof/Machine/Flow.lean ====
section
/-!
DEFINITION. System and control-transfer instructions (spec 41_flow.md) and the catch-all (30_encoding.md R86). As in
every family, a meaning is the instruction's execute step: it starts in the state in which the fetch has already set
`pc` to the instruction's address plus 2 (R16, R76), and the timer tick comes after it (R77).
-/

namespace Sys2Proof.Machine

/-- NOP (R100, R88): nothing. -/
def execNop (s : State) : Result := .next s

/-- Any unrecognised word (R86): a no-op, silently ignored. -/
def execUnrecognised (_w : Word) (s : State) : Result := .next s

/-- CLS (R101): every cell off. -/
def execCls (s : State) : Result := .next (s.setDisp Display.blank)

/-- RET (R102): `pc <- pop()`, or STACK_UNDERFLOW. -/
def execRet (s : State) : Result :=
  complete s <|
    match pop s with
    | .ok (w, t) => .ok (t.setPc w)
    | .error f => .error f

/-- JP addr (R103): `pc <- nnn`. -/
def execJp (nnn : Addr12) (s : State) : Result := .next (s.setPc (addr nnn))

/-- CALL addr (R104): push the address after the call, then `pc <- nnn`, or STACK_OVERFLOW. -/
def execCall (nnn : Addr12) (s : State) : Result :=
  complete s <|
    match push s s.pc with
    | .ok t => .ok (t.setPc (addr nnn))
    | .error f => .error f

/-- JP V0, addr (R105): `pc <- nnn + V[0]`, not reduced to 12 bits. -/
def execJpV0 (nnn : Addr12) (s : State) : Result := .next (s.setPc (addr nnn + (s.getV 0).setWidth 16))

end Sys2Proof.Machine
end

