-- ==== Sys2Proof/Machine/IndexMemory.lean ====
section
/-!
DEFINITION. Index register and memory instructions (spec 44_index_memory.md). None changes `pc`, and no memory access
changes `I` (R176).
-/

namespace Sys2Proof.Machine

/-- LD I, addr (R170). -/
def execLdI (nnn : Addr12) (s : State) : Result := .next (s.setI (addr nnn))

/-- ADD I, Vx (R171): the sum modulo 0x10000, or INDEX_OVERFLOW past 0xFFFF in a build where that faults. -/
def execAddI (x : RegNum) (s : State) : Result :=
  let sum := s.i.toNat + (s.getV x).toNat
  complete s <|
    if 0xFFFF < sum ∧ s.params.indexAddOverflow = .fault then .error ⟨.indexOverflow, sum⟩
    else .ok (s.setI (BitVec.ofNat 16 sum))

/-- LD F, Vx (R172). -/
def execLdFont (x : RegNum) (s : State) : Result := .next (s.setI (glyphAddr (s.getV x)))

/-- LD B, Vx (R173): the decimal digits at `I`, `I + 1`, `I + 2`, or MEM_OUT_OF_RANGE. -/
def execLdBcd (x : RegNum) (s : State) : Result := complete s (storeBytes (s.ea 0) (bcdDigits (s.getV x)) s)

/-- LD [I], Vx (R174): `V[0]` to `V[x]` from `I` on, or MEM_OUT_OF_RANGE. -/
def execStoreRegs (x : RegNum) (s : State) : Result := complete s (storeBytes (s.ea 0) (s.regsUpTo x) s)

/-- LD Vx, [I] (R175): `V[0]` to `V[x]` from the bytes at `I` on, or MEM_OUT_OF_RANGE. -/
def execLoadRegs (x : RegNum) (s : State) : Result :=
  complete s <|
    match readBytes s (s.ea 0) (x.val + 1) with
    | .ok bs => .ok { s with v := loadV 0 bs s.v }
    | .error f => .error f

end Sys2Proof.Machine
end

