-- ==== Sys2Proof/Machine/Skip.lean ====
section
/-!
DEFINITION. Conditional skips (spec 42_skip.md): each advances `pc` by 2 more exactly when its condition holds (R120).
-/

namespace Sys2Proof.Machine

/-- SE Vx, byte (R121). -/
def execSeByte (x : RegNum) (nn : Byte) (s : State) : Result := .next (skipIf (s.getV x == nn) s)

/-- SNE Vx, byte (R122). -/
def execSneByte (x : RegNum) (nn : Byte) (s : State) : Result := .next (skipIf (s.getV x != nn) s)

/-- SE Vx, Vy (R123). -/
def execSeReg (x y : RegNum) (s : State) : Result := .next (skipIf (s.getV x == s.getV y) s)

/-- SNE Vx, Vy (R124). -/
def execSneReg (x y : RegNum) (s : State) : Result := .next (skipIf (s.getV x != s.getV y) s)

/-- SKP Vx (R125): skip if key number `V[x]` is held, or KEY_OUT_OF_RANGE. -/
def execSkp (x : RegNum) (s : State) : Result :=
  complete s <|
    match keyHeld s (s.getV x).toNat with
    | .ok held => .ok (skipIf held s)
    | .error f => .error f

/-- SKNP Vx (R126): skip if key number `V[x]` is not held, or KEY_OUT_OF_RANGE. -/
def execSknp (x : RegNum) (s : State) : Result :=
  complete s <|
    match keyHeld s (s.getV x).toNat with
    | .ok held => .ok (skipIf (!held) s)
    | .error f => .error f

end Sys2Proof.Machine
end

