-- ==== Sys2Proof/Machine/TimerKey.lean ====
section
/-!
DEFINITION. Timer and key-wait instructions (spec 46_timer_key.md). They run before this cycle's timer tick (R284).
-/

namespace Sys2Proof.Machine

/-- LD Vx, DT (R210). -/
def execLdVxDt (x : RegNum) (s : State) : Result := .next (s.setV x s.dt)

/-- LD Vx, K (R211): the number of the first held key, or, with no key held, `pc` back to this instruction. -/
def execLdVxK (x : RegNum) (s : State) : Result :=
  match s.firstHeld with
  | some k => .next (s.setV x (BitVec.ofNat 8 k))
  | none => .next (s.setPc (s.pc - 2))

/-- LD DT, Vx (R212). -/
def execLdDtVx (x : RegNum) (s : State) : Result := .next (s.setDt (s.getV x))

/-- LD ST, Vx (R213). -/
def execLdStVx (x : RegNum) (s : State) : Result := .next (s.setSt (s.getV x))

end Sys2Proof.Machine
end

