-- ==== Sys2Proof/Machine/Cycle.lean ====
section
/-!
DEFINITION. One cycle (spec 30_encoding.md R77) and what a halted core does instead (60_exceptions.md R233).
-/

namespace Sys2Proof.Machine

/-- The end of a cycle, for the outcome of its execute step: a next state ticks, unless it is the halted state of a fault
(R77). -/
def closeCycle : Result → Result
  | .next t => .next (endCycle t)
  | .fault r => .fault r
  | .refused r => .refused r

/-- `Cycle(rand)` of a running core, its input latched: fetch, decode, advance, execute, tick (R77). -/
def runCycle (s : State) : Result :=
  match fetch s with
  | .error f => .next (takeFault f s.pc s)
  | .ok (b0, b1) => closeCycle (exec (decode b0 b1) (advance s))

/-- The host's `Step(rand)` (R255, R259): one cycle of a running core with this random byte; a halted core performs no
cycle and changes no state (R233). -/
def stepWith (rand : Byte) (s : State) : Result :=
  if s.running then runCycle (beginCycle rand s) else .next s

end Sys2Proof.Machine
end

