-- ==== Sys2Proof/Machine/Step.lean ====
section
/-!
DEFINITION. One step of the machine: the host's `Step` with a random byte that is free (spec 60_exceptions.md R257,
R259), and the fetch word the host places.
-/

namespace Sys2Proof.Machine

/-- One `Step` (R77, R233). Its random byte is the next free value, of which nothing is known: `stepWith` is the same
step for a given byte. -/
def step (s : State) : Host.Outcome State Fault Refusal := stepWith (Config.randByte s.freeIx) s

/-- `s` with the instruction of the low `nbits` bits of `w` stored where the next `step` fetches, at `pc` and `pc + 1`,
high byte first (R56; log entry 11). Of a halted core, or with `pc` above 0xFFE, no step fetches. -/
def State.withFetchWord (s : State) (nbits w : Nat) : State := placeWord s (BitVec.ofNat 16 (w % 2 ^ nbits))

end Sys2Proof.Machine
end

