-- ==== Sys2Proof/Machine/Ports.lean ====
section
/-!
DEFINITION. The core's boundary (spec 60_exceptions.md R255): `Reset(image)`, `Step(rand)`, `SetKeys(k16)`,
`ReadPixel(k)`, `ReadDisplay()` and `ReadStatus()`. Each is atomic and falls between cycles (R264), so each is one
function of the state. The reads change nothing (R194, R260): they answer a value and no state.
-/

namespace Sys2Proof.Machine

/-- The memory a reset with this image leaves (R270): the font, the image from 0x200, zero elsewhere. -/
def loadedMem (params : Config.Params) (image : List Byte) : List Host.Cell :=
  Memory.writeAll (Config.resetByte params.font) [] Config.progBase image

/-- `Reset(image)` (R270, R271), in any state, halted or not. An image of more than 3584 bytes takes the fault
PROGRAM_TOO_LARGE with FAULT_PC 0 (R272), and KEYS then keeps what the host wrote (R232, conflict C10). Else every piece
of state takes its reset value and the image is loaded. The model's own fields are no state of the core: the build's
parameters stay and the free values go on (DEDUCED, log entry 16). -/
def resetWith (image : List Byte) (s : State) : State :=
  if Config.maxProgLen < image.length then takeFault ⟨.programTooLarge, image.length⟩ 0 s
  else { State.reset with
    mem := loadedMem s.params image
    params := s.params
    rand := s.rand
    freeIx := s.freeIx }

/-- `SetKeys(k16)` (R256). -/
def setKeys (k16 : Vector Bool 16) (s : State) : State := s.setKeyFlags k16

/-- `ReadPixel(k)` (R194): the cell, or refused for `k ≥ 2048`. -/
def readPixel (k : Nat) (s : State) : Except Refusal Bool :=
  if h : k < 2048 then .ok (Display.cell s.disp ⟨k, h⟩) else .error (.noSuchPixel k)

/-- `ReadDisplay()` (R194): all 2048 cells in index order. -/
def readDisplay (s : State) : List Bool := Display.cells s.disp

/-- What the status port shows (R260). -/
structure Status where
  faultCode : BitVec 4
  faultPc : Word
  faultInfo : BitVec 32
  pc : Word
  i : Word
  dt : Byte
  st : Byte
  cadence : Fin 10
  deriving DecidableEq, Repr

/-- `ReadStatus()` (R260). -/
def readStatus (s : State) : Status where
  faultCode := s.faultCode
  faultPc := s.faultPc
  faultInfo := s.faultInfo
  pc := s.pc
  i := s.i
  dt := s.dt
  st := s.st
  cadence := s.cadence

/-- The host's actions that can change the state (R255). -/
inductive HostAction where
  /-- `Reset(image)`. -/
  | reset (image : List Byte)
  /-- `Step(rand)`. -/
  | step (rand : Byte)
  /-- `SetKeys(k16)`. -/
  | setKeys (k16 : Vector Bool 16)
  deriving DecidableEq, Repr

/-- One host action. -/
def perform (a : HostAction) (s : State) : Result :=
  match a with
  | .reset image => .next (resetWith image s)
  | .step rand => stepWith rand s
  | .setKeys k16 => .next (setKeys k16 s)

end Sys2Proof.Machine
end

