-- ==== Sys2Proof/Safety.lean ====
section
/-!
DEFINITION. The terms claims are made in: when a core runs, what a taken fault shows, and the invariant of the machine.
-/

namespace Sys2Proof.Machine

/-- `r` is the next state in which a core that was in state `s` has taken the fault of number `code` with this value in
FAULT_INFO and `a` in FAULT_PC (60_exceptions.md R232): the status is recorded and KEYS is as it was. Nothing is said of
the rest, which is unspecified, nor of FAULT_INFO where the value has more than its 32 bits. -/
def HaltsWith (r : Result) (s : State) (code : BitVec 4) (a : Word) (info : Nat) : Prop :=
  ∃ t, r = .next t ∧ t.faultCode = code ∧ t.faultPc = a ∧
    (info < 2 ^ 32 → t.faultInfo = BitVec.ofNat 32 info) ∧ t.keys = s.keys

/-- The stack holds no more than the build's capacity (10_state.md R20: length 0 to STACK_CAPACITY). -/
def State.stackFits (s : State) : Bool :=
  match s.params.stackCapacity with
  | some cap => decide (s.stack.length ≤ cap)
  | none => true

/-- What holds of a running core at every cycle boundary: `pc ≤ 0x10FE` (R26), every return address is at most 0x1000
and the stack fits (R29, R20), and no fault is recorded beside the code NONE (R37, R231). -/
def State.runningInv (s : State) : Bool :=
  decide (s.pc.toNat ≤ 0x10FE) && s.stack.all (fun w => decide (w.toNat ≤ 0x1000)) && s.stackFits
    && s.faultPc == 0 && s.faultInfo == 0

/-- The invariant of the machine: the memory is in canonical form, FAULT_CODE is one of the codes 0 to 8 (R36, R231),
and a core that runs meets `runningInv`. Of a halted core only the fault status and KEYS are specified (R232). -/
def State.Inv (s : State) : Prop :=
  s.memWf = true ∧ s.faultCode.toNat ≤ 8 ∧ (s.running = true → s.runningInv = true)

end Sys2Proof.Machine
end

