-- ==== Sys2Proof/WellFormed.lean ====
section
/-!
DEFINITION. Which terms of `Instr` are instructions. Register numbers, immediates and counts are in range by their
types (spec 10_state.md R22, 30_encoding.md R74), so the one check is on the catch-all: it may carry only a word of
the list of R86, written here from that list and not from the decoder.
-/

namespace Sys2Proof

/-- The unrecognised words, space by space as 30_encoding.md R86 lists them, by the nibbles `a b c d` of the word. -/
def unrecognisedWord (w : Word) : Bool :=
  let a := w.extractLsb' 12 4
  let d := w.extractLsb' 0 4
  let low := w.extractLsb' 0 8
  (a == 0x0 && w != 0x0000 && w != 0x00E0 && w != 0x00EE)
  || (a == 0x5 && d != 0x0)
  || (a == 0x8 && (d == 0x8 || d == 0x9 || d == 0xA || d == 0xB || d == 0xC || d == 0xD || d == 0xF))
  || (a == 0x9 && d != 0x0)
  || (a == 0xE && low != 0x9E && low != 0xA1)
  || (a == 0xF && low != 0x07 && low != 0x0A && low != 0x15 && low != 0x18 && low != 0x1E && low != 0x29
        && low != 0x33 && low != 0x55 && low != 0x65)

/-- A well-formed instruction: the catch-all carries an unrecognised word, and every other term is one. -/
def Instr.wellFormed : Instr → Bool
  | .nop => true
  | .cls => true
  | .ret => true
  | .jp _ => true
  | .call _ => true
  | .seByte _ _ => true
  | .sneByte _ _ => true
  | .seReg _ _ => true
  | .ldByte _ _ => true
  | .addByte _ _ => true
  | .ldReg _ _ => true
  | .orReg _ _ => true
  | .andReg _ _ => true
  | .xorReg _ _ => true
  | .addReg _ _ => true
  | .subReg _ _ => true
  | .shr _ _ => true
  | .subnReg _ _ => true
  | .shl _ _ => true
  | .sneReg _ _ => true
  | .ldI _ => true
  | .jpV0 _ => true
  | .rnd _ _ => true
  | .drw _ _ _ => true
  | .skp _ => true
  | .sknp _ => true
  | .ldVxDt _ => true
  | .ldVxK _ => true
  | .ldDtVx _ => true
  | .ldStVx _ => true
  | .addI _ => true
  | .ldFont _ => true
  | .ldBcd _ => true
  | .storeRegs _ => true
  | .loadRegs _ => true
  | .unrecognised w => unrecognisedWord w

end Sys2Proof
end

