-- ==== Sys2Proof/Certificates/Slice0/Obligations.lean ====
section
/-!
DEFINITION. The statements made of the model, for the provers. Each names in its docstring the rule of spec/ it
formalises. The words of the rules' encoding lines (`0x6000 | x<<8 | nn`, …) are written by the four `Spec.word…`
functions, from those lines and not from the encoder.
-/

open Sys2Proof Sys2Proof.Machine

/-- `op | nnn`. -/
def Sys2Proof.Spec.wordNNN (op : Word) (nnn : Addr12) : Word := op ||| nnn.setWidth 16

/-- `op | x<<8 | nn`. -/
def Sys2Proof.Spec.wordXNN (op : Word) (x : RegNum) (nn : Byte) : Word :=
  op ||| (BitVec.ofNat 16 x.val <<< 8) ||| nn.setWidth 16

/-- `op | x<<8 | y<<4`. -/
def Sys2Proof.Spec.wordXY (op : Word) (x y : RegNum) : Word :=
  op ||| (BitVec.ofNat 16 x.val <<< 8) ||| (BitVec.ofNat 16 y.val <<< 4)

/-- `op | x<<8`. -/
def Sys2Proof.Spec.wordX (op : Word) (x : RegNum) : Word := op ||| (BitVec.ofNat 16 x.val <<< 8)

open Sys2Proof.Spec

/-! ### Encoding and decoding -/

/-- Words of every family, written out nibble by nibble from R79, decode to what they stand for. -/
def Obligations.SampleWordsDecode : Prop :=
  decodeWord 0x00EE = .ret ∧ decodeWord 0x2ABC = .call 0xABC ∧ decodeWord 0xE39E = .skp 3 ∧
  decodeWord 0x5120 = .seReg 1 2 ∧ decodeWord 0x8AB7 = .subnReg 0xA 0xB ∧ decodeWord 0xC30F = .rnd 3 0x0F ∧
  decodeWord 0xF565 = .loadRegs 5 ∧ decodeWord 0xD125 = .drw 1 2 5 ∧ decodeWord 0xF50A = .ldVxK 5 ∧
  decodeWord 0x5121 = .unrecognised 0x5121

/-- From R74 and R79: every well-formed instruction is what its word, and its two bytes in any list, decode to. -/
def Obligations.DecodeOfEncode : Prop :=
  ∀ (i : Instr) (rest : List Byte), i.wellFormed = true →
    decodeWord (encode i) = i ∧ decodeBytes (encodeBytes i ++ rest) = .ok (i, rest)

/-- From R73 and R86: every one of the 65536 words decodes, to a well-formed instruction, and no bit of it is lost. -/
def Obligations.EncodeOfDecode : Prop :=
  ∀ w : Word, (decodeWord w).wellFormed = true ∧ encode (decodeWord w) = w

/-- R79: a row of the opcode map selects an instruction when `(w & mask) = match`; at most one row selects a word
(R78), and a word that no row selects is unrecognised. -/
def Obligations.DecodeFollowsOpcodeMap : Prop :=
  ∀ w : Word,
    (∀ r ∈ opcodeMap, w &&& r.mask = r.bits → (decodeWord w).mnemonic = r.mnemonic) ∧
    (opcodeMap.filter fun r => r.selects w).length ≤ 1 ∧
    ((∀ r ∈ opcodeMap, w &&& r.mask ≠ r.bits) → decodeWord w = .unrecognised w)

/-- From R86: an unrecognised word decodes to the catch-all, whose execute step writes nothing; a running core that
fetches it advances `pc` by 2 and ticks, and nothing else changes. -/
def Obligations.UnrecognisedWordIsNoOp : Prop :=
  ∀ (w : Word) (s : State), unrecognisedWord w = true →
    decodeWord w = .unrecognised w ∧ exec (.unrecognised w) s = .next s ∧
    ∀ rand, s.running = true → s.pc.toNat + 1 ≤ 0xFFF →
      s.byteAt s.pc.toNat ++ s.byteAt (s.pc.toNat + 1) = w →
      stepWith rand s = .next (timerTick { s with pc := s.pc + 2, rand := rand, freeIx := s.freeIx + 1 })

/-! ### System and control transfer (41_flow.md) -/

/-- R100: `0000` leaves all state unchanged; in a cycle `pc` advances by 2 and the cadence ticks. -/
def Obligations.NopChangesNothing : Prop :=
  decodeWord 0x0000 = .nop ∧ ∀ s : State, exec .nop s = .next s ∧
    ∀ rand, s.running = true → s.pc.toNat + 1 ≤ 0xFFF → s.byteAt s.pc.toNat = 0 → s.byteAt (s.pc.toNat + 1) = 0 →
      stepWith rand s = .next (timerTick { s with pc := s.pc + 2, rand := rand, freeIx := s.freeIx + 1 })

/-- R101: `00E0` turns every cell off and changes nothing else. -/
def Obligations.ClsTurnsAllCellsOff : Prop :=
  decodeWord 0x00E0 = .cls ∧ ∀ s : State, ∃ t, exec .cls s = .next t ∧
    (∀ k, k < 2048 → readPixel k t = .ok false) ∧ t = { s with disp := t.disp }

/-- From R102: `00EE` pops the last return address into `pc`, or faults STACK_UNDERFLOW on an empty stack. FAULT_INFO
is the 0 of R231's row, or the fetch address `a` as R102 itself writes it, by the account the build follows: the spec
gives both, and that a build's parameters say which is the model's choice (log entry 8). -/
def Obligations.RetPopsOrUnderflows : Prop :=
  decodeWord 0x00EE = .ret ∧ ∀ s : State,
    (∀ (l : List Word) (w : Word), s.stack = l ++ [w] → exec .ret s = .next { s with pc := w, stack := l }) ∧
    (s.stack = [] → s.params.stackFaultInfo = .tableRow → HaltsWith (exec .ret s) s 2 (s.pc - 2) 0) ∧
    (s.stack = [] → s.params.stackFaultInfo = .fetchAddress →
      HaltsWith (exec .ret s) s 2 (s.pc - 2) (s.pc - 2).toNat)

/-- R103: `1nnn` sets `pc` to `nnn` and changes nothing else. -/
def Obligations.JpSetsPc : Prop :=
  ∀ (nnn : Addr12) (s : State), decodeWord (wordNNN 0x1000 nnn) = .jp nnn ∧
    ∃ t, exec (.jp nnn) s = .next t ∧ t.pc.toNat = nnn.toNat ∧ t = { s with pc := t.pc }

/-- From R104: `2nnn` pushes the address after the call and sets `pc` to `nnn`, or faults STACK_OVERFLOW when the
stack is at a finite capacity. FAULT_INFO is the capacity, as R231's row and the vector J8 have it, or the fetch
address `a` as R104 itself writes it, by the account the build follows: the spec gives both, and that a build's
parameters say which is the model's choice (log entry 8). -/
def Obligations.CallPushesOrOverflows : Prop :=
  ∀ (nnn : Addr12) (s : State), decodeWord (wordNNN 0x2000 nnn) = .call nnn ∧
    (s.params.stackCapacity ≠ some s.stack.length →
      ∃ t, exec (.call nnn) s = .next t ∧ t.stack = s.stack ++ [s.pc] ∧ t.pc.toNat = nnn.toNat ∧
        t = { s with stack := t.stack, pc := t.pc }) ∧
    (s.params.stackCapacity = some s.stack.length → s.params.stackFaultInfo = .tableRow →
      HaltsWith (exec (.call nnn) s) s 3 (s.pc - 2) s.stack.length) ∧
    (s.params.stackCapacity = some s.stack.length → s.params.stackFaultInfo = .fetchAddress →
      HaltsWith (exec (.call nnn) s) s 3 (s.pc - 2) (s.pc - 2).toNat)

/-- R105: `Bnnn` sets `pc` to `nnn + V[0]`, not reduced to 12 bits, and changes nothing else. -/
def Obligations.JpV0AddsV0 : Prop :=
  ∀ (nnn : Addr12) (s : State), decodeWord (wordNNN 0xB000 nnn) = .jpV0 nnn ∧
    ∃ t, exec (.jpV0 nnn) s = .next t ∧ t.pc.toNat = nnn.toNat + (s.getV 0).toNat ∧ t = { s with pc := t.pc }

/-! ### Skips (42_skip.md) -/

/-- R121, R122: `3xnn` skips exactly if `V[x] = nn`, `4xnn` exactly if not; nothing else changes. -/
def Obligations.SkipsOnByte : Prop :=
  ∀ (x : RegNum) (nn : Byte) (s : State),
    decodeWord (wordXNN 0x3000 x nn) = .seByte x nn ∧ decodeWord (wordXNN 0x4000 x nn) = .sneByte x nn ∧
    exec (.seByte x nn) s = .next { s with pc := if s.getV x = nn then s.pc + 2 else s.pc } ∧
    exec (.sneByte x nn) s = .next { s with pc := if s.getV x = nn then s.pc else s.pc + 2 }

/-- R123, R124: `5xy0` skips exactly if `V[x] = V[y]`, `9xy0` exactly if not; nothing else changes. -/
def Obligations.SkipsOnRegister : Prop :=
  ∀ (x y : RegNum) (s : State),
    decodeWord (wordXY 0x5000 x y) = .seReg x y ∧ decodeWord (wordXY 0x9000 x y) = .sneReg x y ∧
    (∀ n : RowCount, n ≠ 0 →
      decodeWord (wordXY 0x5000 x y ||| BitVec.ofNat 16 n.val) =
        .unrecognised (wordXY 0x5000 x y ||| BitVec.ofNat 16 n.val) ∧
      decodeWord (wordXY 0x9000 x y ||| BitVec.ofNat 16 n.val) =
        .unrecognised (wordXY 0x9000 x y ||| BitVec.ofNat 16 n.val)) ∧
    exec (.seReg x y) s = .next { s with pc := if s.getV x = s.getV y then s.pc + 2 else s.pc } ∧
    exec (.sneReg x y) s = .next { s with pc := if s.getV x = s.getV y then s.pc else s.pc + 2 }

/-- R125, R126: `Ex9E` skips exactly if key number `V[x]` is held, `ExA1` exactly if it is not; a key number above 15
faults KEY_OUT_OF_RANGE. Nothing else changes. -/
def Obligations.SkipsOnKey : Prop :=
  ∀ (x : RegNum) (s : State),
    decodeWord (wordX 0xE09E x) = .skp x ∧ decodeWord (wordX 0xE0A1 x) = .sknp x ∧
    (∀ k : RegNum, (s.getV x).toNat = k.val →
      exec (.skp x) s = .next { s with pc := if s.keys[k.val] then s.pc + 2 else s.pc } ∧
      exec (.sknp x) s = .next { s with pc := if s.keys[k.val] then s.pc else s.pc + 2 }) ∧
    (15 < (s.getV x).toNat →
      HaltsWith (exec (.skp x) s) s 6 (s.pc - 2) (s.getV x).toNat ∧
      HaltsWith (exec (.sknp x) s) s 6 (s.pc - 2) (s.getV x).toNat)

/-! ### Arithmetic and logic (43_alu.md) -/

/-- R141, R143: `6xnn` writes `nn` to `V[x]`, `8xy0` writes `V[y]` to `V[x]`; nothing else changes. -/
def Obligations.LoadsWriteVx : Prop :=
  ∀ (x y : RegNum) (nn : Byte) (s : State),
    decodeWord (wordXNN 0x6000 x nn) = .ldByte x nn ∧ decodeWord (wordXY 0x8000 x y) = .ldReg x y ∧
    (∃ t, exec (.ldByte x nn) s = .next t ∧ t.getV x = nn ∧
      (∀ j, j ≠ x → t.getV j = s.getV j) ∧ t = { s with v := t.v }) ∧
    (∃ t, exec (.ldReg x y) s = .next t ∧ t.getV x = s.getV y ∧
      (∀ j, j ≠ x → t.getV j = s.getV j) ∧ t = { s with v := t.v })

/-- R142: `7xnn` adds `nn` to `V[x]` modulo 256, writes no flag and changes nothing else. -/
def Obligations.AddByteWrapsWithoutFlag : Prop :=
  ∀ (x : RegNum) (nn : Byte) (s : State), decodeWord (wordXNN 0x7000 x nn) = .addByte x nn ∧
    ∃ t, exec (.addByte x nn) s = .next t ∧ (t.getV x).toNat = ((s.getV x).toNat + nn.toNat) % 256 ∧
      (∀ j, j ≠ x → t.getV j = s.getV j) ∧ t = { s with v := t.v }

/-- R144, R145, R146: `8xy1`, `8xy2`, `8xy3` write the bitwise OR, AND, XOR of `V[x]` and `V[y]` to `V[x]`; VF, unless
it is `V[x]`, and everything else is unchanged. -/
def Obligations.LogicWritesBitwiseResult : Prop :=
  ∀ (x y : RegNum) (s : State),
    decodeWord (wordXY 0x8001 x y) = .orReg x y ∧ decodeWord (wordXY 0x8002 x y) = .andReg x y ∧
    decodeWord (wordXY 0x8003 x y) = .xorReg x y ∧
    (∃ t, exec (.orReg x y) s = .next t ∧
      (∀ b, (t.getV x).getLsbD b = ((s.getV x).getLsbD b || (s.getV y).getLsbD b)) ∧
      (∀ j, j ≠ x → t.getV j = s.getV j) ∧ t = { s with v := t.v }) ∧
    (∃ t, exec (.andReg x y) s = .next t ∧
      (∀ b, (t.getV x).getLsbD b = ((s.getV x).getLsbD b && (s.getV y).getLsbD b)) ∧
      (∀ j, j ≠ x → t.getV j = s.getV j) ∧ t = { s with v := t.v }) ∧
    (∃ t, exec (.xorReg x y) s = .next t ∧
      (∀ b, (t.getV x).getLsbD b = ((s.getV x).getLsbD b != (s.getV y).getLsbD b)) ∧
      (∀ j, j ≠ x → t.getV j = s.getV j) ∧ t = { s with v := t.v })

/-- R147: `8xy4` writes the sum modulo 256 to `V[x]` and then the carry to VF, both from the old operands; with `x =
F` VF ends as the carry. -/
def Obligations.AddRegWritesSumAndCarry : Prop :=
  ∀ (x y : RegNum) (s : State), decodeWord (wordXY 0x8004 x y) = .addReg x y ∧
    ∃ t, exec (.addReg x y) s = .next t ∧
      (x ≠ 15 → (t.getV x).toNat = ((s.getV x).toNat + (s.getV y).toNat) % 256) ∧
      (t.getV 15).toNat = (if 256 ≤ (s.getV x).toNat + (s.getV y).toNat then 1 else 0) ∧
      (∀ j, j ≠ x → j ≠ 15 → t.getV j = s.getV j) ∧ t = { s with v := t.v }

/-- R148: `8xy5` writes `V[x] − V[y]` modulo 256 to `V[x]` and then NOT borrow to VF, both from the old operands. -/
def Obligations.SubRegWritesDifferenceAndNotBorrow : Prop :=
  ∀ (x y : RegNum) (s : State), decodeWord (wordXY 0x8005 x y) = .subReg x y ∧
    ∃ t, exec (.subReg x y) s = .next t ∧
      (x ≠ 15 → ((t.getV x).toNat : Int) = ((s.getV x).toNat - (s.getV y).toNat : Int) % 256) ∧
      (t.getV 15).toNat = (if (s.getV y).toNat ≤ (s.getV x).toNat then 1 else 0) ∧
      (∀ j, j ≠ x → j ≠ 15 → t.getV j = s.getV j) ∧ t = { s with v := t.v }

/-- R150: `8xy7` writes `V[y] − V[x]` modulo 256 to `V[x]` and then NOT borrow to VF, both from the old operands. -/
def Obligations.SubnRegWritesDifferenceAndNotBorrow : Prop :=
  ∀ (x y : RegNum) (s : State), decodeWord (wordXY 0x8007 x y) = .subnReg x y ∧
    ∃ t, exec (.subnReg x y) s = .next t ∧
      (x ≠ 15 → ((t.getV x).toNat : Int) = ((s.getV y).toNat - (s.getV x).toNat : Int) % 256) ∧
      (t.getV 15).toNat = (if (s.getV x).toNat ≤ (s.getV y).toNat then 1 else 0) ∧
      (∀ j, j ≠ x → j ≠ 15 → t.getV j = s.getV j) ∧ t = { s with v := t.v }

/-- From R149: `8xy6` writes bit 0 of `V[x]` to VF and then shifts `V[x]` right in place; with `x = F` VF ends 0, by
the spec's decision D12 on the order of the clauses. `V[y]` is not read. -/
def Obligations.ShrShiftsInPlace : Prop :=
  ∀ (x y : RegNum) (s : State), decodeWord (wordXY 0x8006 x y) = .shr x y ∧
    ∃ t, exec (.shr x y) s = .next t ∧
      (x ≠ 15 → (t.getV x).toNat = (s.getV x).toNat / 2 ∧ (t.getV 15).toNat = (s.getV x).toNat % 2) ∧
      (x = 15 → t.getV 15 = 0) ∧
      (∀ j, j ≠ x → j ≠ 15 → t.getV j = s.getV j) ∧ t = { s with v := t.v }

/-- From R151: `8xyE` writes bit 7 of `V[x]` to VF and then shifts `V[x]` left in place; with `x = F` VF ends 2 if its
old bit 7 was 1 and 0 otherwise, by the spec's decision D12 on the order of the clauses. `V[y]` is not read. -/
def Obligations.ShlShiftsInPlace : Prop :=
  ∀ (x y : RegNum) (s : State), decodeWord (wordXY 0x800E x y) = .shl x y ∧
    ∃ t, exec (.shl x y) s = .next t ∧
      (x ≠ 15 → (t.getV x).toNat = (s.getV x).toNat * 2 % 256 ∧ (t.getV 15).toNat = (s.getV x).toNat / 128) ∧
      (x = 15 → (t.getV 15).toNat = if 128 ≤ (s.getV 15).toNat then 2 else 0) ∧
      (∀ j, j ≠ x → j ≠ 15 → t.getV j = s.getV j) ∧ t = { s with v := t.v }

/-- R152: `Cxnn` writes the cycle's random byte, masked by `nn`, to `V[x]`, for every random byte. -/
def Obligations.RndMasksRandomByte : Prop :=
  ∀ (x : RegNum) (nn : Byte) (s : State), decodeWord (wordXNN 0xC000 x nn) = .rnd x nn ∧
    ∃ t, exec (.rnd x nn) s = .next t ∧ (∀ b, (t.getV x).getLsbD b = (s.rand.getLsbD b && nn.getLsbD b)) ∧
      (∀ j, j ≠ x → t.getV j = s.getV j) ∧ t = { s with v := t.v }

/-! ### Index and memory (44_index_memory.md) -/

/-- R170, R172: `Annn` sets `I` to `nnn`, `Fx29` to `V[x] * 5` with the whole register multiplied; nothing else
changes. -/
def Obligations.IndexLoads : Prop :=
  ∀ (nnn : Addr12) (x : RegNum) (s : State),
    decodeWord (wordNNN 0xA000 nnn) = .ldI nnn ∧ decodeWord (wordX 0xF029 x) = .ldFont x ∧
    (∃ t, exec (.ldI nnn) s = .next t ∧ t.i.toNat = nnn.toNat ∧ t = { s with i := t.i }) ∧
    (∃ t, exec (.ldFont x) s = .next t ∧ t.i.toNat = (s.getV x).toNat * 5 ∧ t = { s with i := t.i })

/-- From R171: `Fx1E` adds `V[x]` to `I` modulo 0x10000, or faults INDEX_OVERFLOW past 0xFFFF in a build where that
faults (the spec's parameter INDEX_ADD_OVERFLOW, decision D6); VF and everything else is unchanged. -/
def Obligations.AddIWrapsOrFaults : Prop :=
  ∀ (x : RegNum) (s : State), decodeWord (wordX 0xF01E x) = .addI x ∧
    ((s.i.toNat + (s.getV x).toNat ≤ 0xFFFF ∨ s.params.indexAddOverflow = .wrap) →
      ∃ t, exec (.addI x) s = .next t ∧ t.i.toNat = (s.i.toNat + (s.getV x).toNat) % 0x10000 ∧
        t = { s with i := t.i }) ∧
    (0xFFFF < s.i.toNat + (s.getV x).toNat → s.params.indexAddOverflow = .fault →
      HaltsWith (exec (.addI x) s) s 8 (s.pc - 2) (s.i.toNat + (s.getV x).toNat))

/-- R173: `Fx33` stores the decimal digits of `V[x]`, hundreds first, at `I`, `I + 1`, `I + 2`, and leaves every other
byte, `I` and everything else as it was; past 0xFFF it faults MEM_OUT_OF_RANGE with the first such address. -/
def Obligations.BcdStoresDigits : Prop :=
  ∀ (x : RegNum) (s : State), decodeWord (wordX 0xF033 x) = .ldBcd x ∧
    (s.memWf = true → s.i.toNat + 2 ≤ 0xFFF →
      ∃ t, exec (.ldBcd x) s = .next t ∧
        (t.byteAt s.i.toNat).toNat = (s.getV x).toNat / 100 ∧
        (t.byteAt (s.i.toNat + 1)).toNat = (s.getV x).toNat / 10 % 10 ∧
        (t.byteAt (s.i.toNat + 2)).toNat = (s.getV x).toNat % 10 ∧
        (∀ a, a < s.i.toNat ∨ s.i.toNat + 2 < a → t.byteAt a = s.byteAt a) ∧ t = { s with mem := t.mem }) ∧
    (0xFFF < s.i.toNat + 2 → HaltsWith (exec (.ldBcd x) s) s 4 (s.pc - 2) (max s.i.toNat 0x1000))

/-- R174: `Fx55` stores `V[0]` to `V[x]` at `I` to `I + x` and leaves every other byte, `I` and everything else as it
was; past 0xFFF it faults MEM_OUT_OF_RANGE. -/
def Obligations.StoreRegsStoresRegisters : Prop :=
  ∀ (x : RegNum) (s : State), decodeWord (wordX 0xF055 x) = .storeRegs x ∧
    (s.memWf = true → s.i.toNat + x.val ≤ 0xFFF →
      ∃ t, exec (.storeRegs x) s = .next t ∧
        (∀ k : RegNum, k ≤ x → t.byteAt (s.i.toNat + k.val) = s.getV k) ∧
        (∀ a, a < s.i.toNat ∨ s.i.toNat + x.val < a → t.byteAt a = s.byteAt a) ∧ t = { s with mem := t.mem }) ∧
    (0xFFF < s.i.toNat + x.val → HaltsWith (exec (.storeRegs x) s) s 4 (s.pc - 2) (max s.i.toNat 0x1000))

/-- R175: `Fx65` loads `V[0]` to `V[x]` from `I` to `I + x` and leaves the registers above `x`, `I`, every byte of
memory and everything else as it was; past 0xFFF it faults MEM_OUT_OF_RANGE. -/
def Obligations.LoadRegsLoadsRegisters : Prop :=
  ∀ (x : RegNum) (s : State), decodeWord (wordX 0xF065 x) = .loadRegs x ∧
    (s.i.toNat + x.val ≤ 0xFFF →
      ∃ t, exec (.loadRegs x) s = .next t ∧
        (∀ k : RegNum, k ≤ x → t.getV k = s.byteAt (s.i.toNat + k.val)) ∧
        (∀ k : RegNum, x < k → t.getV k = s.getV k) ∧ t = { s with v := t.v }) ∧
    (0xFFF < s.i.toNat + x.val → HaltsWith (exec (.loadRegs x) s) s 4 (s.pc - 2) (max s.i.toNat 0x1000))

/-! ### Display (45_display.md) -/

/-- From R191 and R192, the case without a fault, with the coordinates not reduced modulo 256 by the spec's decision
D8, and from R193: where every row address is at most 0xFFF and every set bit has a linear index below 2048, `Dxyn`
changes exactly the cells that some set bit of the sprite has as its index `(V[x] + col) + 64 * (V[y] + row)`, with no
wrap of any kind; VF and everything else is unchanged. -/
def Obligations.DrwTogglesSpriteCells : Prop :=
  ∀ (x y : RegNum) (n : RowCount) (s : State),
    decodeWord (wordXY 0xD000 x y ||| BitVec.ofNat 16 n.val) = .drw x y n ∧
    ((∀ row, row < n.val → s.i.toNat + row ≤ 0xFFF) →
    (∀ row col, row < n.val → col < 8 → (s.byteAt (s.i.toNat + row)).getLsbD (7 - col) = true →
      ((s.getV x).toNat + col) + 64 * ((s.getV y).toNat + row) < 2048) →
    ∃ t, exec (.drw x y n) s = .next t ∧ t = { s with disp := t.disp } ∧
      ∀ k : Fin 2048, (readPixel k.val t ≠ readPixel k.val s ↔
        ∃ row col, row < n.val ∧ col < 8 ∧ (s.byteAt (s.i.toNat + row)).getLsbD (7 - col) = true ∧
          ((s.getV x).toNat + col) + 64 * ((s.getV y).toNat + row) = k.val))

/-- From R191 and R235: a row address above 0xFFF faults MEM_OUT_OF_RANGE with that address, where the rows before it
are readable and draw no pixel out of range. -/
def Obligations.DrwFaultsOnRowAddress : Prop :=
  ∀ (x y : RegNum) (n : RowCount) (s : State) (r : Nat), r < n.val → 0xFFF < s.i.toNat + r →
    (∀ row, row < r → s.i.toNat + row ≤ 0xFFF) →
    (∀ row col, row < r → col < 8 → (s.byteAt (s.i.toNat + row)).getLsbD (7 - col) = true →
      ((s.getV x).toNat + col) + 64 * ((s.getV y).toNat + row) < 2048) →
    HaltsWith (exec (.drw x y n) s) s 4 (s.pc - 2) (s.i.toNat + r)

/-- From R192 and R235: a set bit whose linear index is 2048 or more faults DISPLAY_OUT_OF_RANGE with that index,
where the rows up to its own are readable and no earlier set bit, in row order and then left to right, is out of
range. -/
def Obligations.DrwFaultsOnPixelIndex : Prop :=
  ∀ (x y : RegNum) (n : RowCount) (s : State) (r c : Nat), r < n.val → c < 8 →
    (∀ row, row ≤ r → s.i.toNat + row ≤ 0xFFF) →
    (s.byteAt (s.i.toNat + r)).getLsbD (7 - c) = true →
    2048 ≤ ((s.getV x).toNat + c) + 64 * ((s.getV y).toNat + r) →
    (∀ row col, (row < r ∧ col < 8 ∨ row = r ∧ col < c) → (s.byteAt (s.i.toNat + row)).getLsbD (7 - col) = true →
      ((s.getV x).toNat + col) + 64 * ((s.getV y).toNat + row) < 2048) →
    HaltsWith (exec (.drw x y n) s) s 5 (s.pc - 2) (((s.getV x).toNat + c) + 64 * ((s.getV y).toNat + r))

/-- From R191: drawing the same sprite twice at the same place restores the display, and all else. -/
def Obligations.DrwTwiceRestoresDisplay : Prop :=
  ∀ (x y : RegNum) (n : RowCount) (s t : State),
    exec (.drw x y n) s = .next t → t.faultCode = s.faultCode → s.faultCode = 0 → exec (.drw x y n) t = .next s

/-! ### Timers and keys (46_timer_key.md) -/

/-- R210, R212, R213: `Fx07` copies DT to `V[x]`, `Fx15` copies `V[x]` to DT, `Fx18` copies `V[x]` to ST, and their
execute steps change nothing else. On a tick cycle `Fx07` reads DT before the decrement, and a value that `Fx15` or
`Fx18` writes is decremented in the same cycle (R284, which the spec derives, says the same). -/
def Obligations.TimerMoves : Prop :=
  ∀ (x : RegNum) (s : State),
    decodeWord (wordX 0xF007 x) = .ldVxDt x ∧ decodeWord (wordX 0xF015 x) = .ldDtVx x ∧
    decodeWord (wordX 0xF018 x) = .ldStVx x ∧
    (∃ t, exec (.ldVxDt x) s = .next t ∧ t.getV x = s.dt ∧ (∀ j, j ≠ x → t.getV j = s.getV j) ∧
      t = { s with v := t.v }) ∧
    exec (.ldDtVx x) s = .next { s with dt := s.getV x } ∧
    exec (.ldStVx x) s = .next { s with st := s.getV x } ∧
    (s.running = true → s.pc.toNat + 1 ≤ 0xFFF → s.cadence.val = 9 →
      let i := decode (s.byteAt s.pc.toNat) (s.byteAt (s.pc.toNat + 1))
      ∀ rand : Byte,
        (i = .ldVxDt x →
          ∃ t, stepWith rand s = .next t ∧ t.getV x = s.dt ∧ t.dt.toNat = s.dt.toNat - 1 ∧ t.cadence = 0) ∧
        (i = .ldDtVx x →
          ∃ t, stepWith rand s = .next t ∧ t.dt.toNat = (s.getV x).toNat - 1 ∧ t.cadence = 0) ∧
        (i = .ldStVx x →
          ∃ t, stepWith rand s = .next t ∧ t.st.toNat = (s.getV x).toNat - 1 ∧ t.cadence = 0))

/-- R211, R282: `Fx0A` writes the number of the lowest held key to `V[x]`; with no key held its execute step only sets
`pc` back by 2, so that the whole cycle leaves `pc` at the instruction and counts towards the timers. -/
def Obligations.KeyWaitTakesLowestHeldKey : Prop :=
  ∀ (x : RegNum) (s : State), decodeWord (wordX 0xF00A x) = .ldVxK x ∧
    (∀ k : RegNum, s.keys[k.val] = true → (∀ j : RegNum, j < k → s.keys[j.val] = false) →
      ∃ t, exec (.ldVxK x) s = .next t ∧ (t.getV x).toNat = k.val ∧ (∀ j, j ≠ x → t.getV j = s.getV j) ∧
        t = { s with v := t.v }) ∧
    ((∀ k : RegNum, s.keys[k.val] = false) →
      exec (.ldVxK x) s = .next { s with pc := s.pc - 2 } ∧
      ∀ rand : Byte, s.running = true → s.pc.toNat + 1 ≤ 0xFFF →
        decode (s.byteAt s.pc.toNat) (s.byteAt (s.pc.toNat + 1)) = .ldVxK x →
        stepWith rand s = .next (timerTick { s with rand := rand, freeIx := s.freeIx + 1 }))

/-! ### The cycle, the tick, the faults -/

/-- From R76 and, for a fetch that succeeds, R77 (with the spec's decision D19, that a faulting cycle does not tick):
a running core whose two bytes at `pc` exist runs the instruction they decode to, from the state in which `pc` is
advanced by 2, to at most 0x1000 (and the model's own fields hold the random byte and the number of the next free
value). If that raises no fault the timer tick follows; the halted state of a fault is the result as it is. That
`step` is the same with the free random byte `Config.randByte s.freeIx` is the model's choice of log entry 3. -/
def Obligations.StepRunsDecodedInstruction : Prop :=
  ∀ (rand : Byte) (s : State), s.running = true → s.pc.toNat + 1 ≤ 0xFFF →
    (s.pc + 2).toNat = s.pc.toNat + 2 ∧ (s.pc + 2).toNat ≤ 0x1000 ∧
    (∀ t, exec (decode (s.byteAt s.pc.toNat) (s.byteAt (s.pc.toNat + 1)))
        { s with pc := s.pc + 2, rand := rand, freeIx := s.freeIx + 1 } = .next t →
      stepWith rand s = .next (if t.faultCode = 0 then timerTick t else t)) ∧
    (step s = stepWith (Config.randByte s.freeIx) s)

/-- R72: a fetch at `a` reads the bytes at `a` and `a + 1`, and with `a + 1 > 0xFFF` faults FETCH_OUT_OF_RANGE. -/
def Obligations.FetchReadsTwoBytesOrFaults : Prop :=
  ∀ (rand : Byte) (s : State),
    (s.pc.toNat + 1 ≤ 0xFFF → fetch s = .ok (s.byteAt s.pc.toNat, s.byteAt (s.pc.toNat + 1))) ∧
    (s.running = true → 0xFFF < s.pc.toNat + 1 → HaltsWith (stepWith rand s) s 1 s.pc s.pc.toNat)

/-- From R233 (decision D9 of the spec): while FAULT_CODE is not NONE a `Step` changes no state, and only a reset
makes the core run again. -/
def Obligations.HaltedCoreStaysHalted : Prop :=
  ∀ (s : State), s.faultCode ≠ 0 →
    (∀ rand, stepWith rand s = .next s) ∧ step s = .next s ∧
    (∀ a t, perform a s = .next t → t.faultCode = 0 → ∃ image, a = .reset image)

/-- From R231: an execute step of a running core records a fault only for the conditions of the table, each with its
own code. -/
def Obligations.FaultsOnlyForListedCauses : Prop :=
  ∀ (i : Instr) (s t : State), s.faultCode = 0 → exec i s = .next t → t.faultCode ≠ 0 →
    (t.faultCode = 2 ∧ i = .ret ∧ s.stack = []) ∨
    (t.faultCode = 3 ∧ (∃ nnn, i = .call nnn) ∧ s.params.stackCapacity = some s.stack.length) ∨
    (t.faultCode = 4 ∧ ((∃ x, i = .ldBcd x ∧ 0xFFF < s.i.toNat + 2) ∨
      (∃ x, (i = .storeRegs x ∨ i = .loadRegs x) ∧ 0xFFF < s.i.toNat + x.val) ∨
      (∃ x y n, i = .drw x y n ∧ 0xFFF < s.i.toNat + (n.val - 1)))) ∨
    (t.faultCode = 5 ∧ ∃ x y n row col, i = .drw x y n ∧ row < n.val ∧ col < 8 ∧
      (s.byteAt (s.i.toNat + row)).getLsbD (7 - col) = true ∧
      2048 ≤ ((s.getV x).toNat + col) + 64 * ((s.getV y).toNat + row)) ∨
    (t.faultCode = 6 ∧ ∃ x, (i = .skp x ∨ i = .sknp x) ∧ 15 < (s.getV x).toNat) ∨
    (t.faultCode = 8 ∧ ∃ x, i = .addI x ∧ 0xFFFF < s.i.toNat + (s.getV x).toNat ∧
      s.params.indexAddOverflow = .fault)

/-- From R230 and R87: every step of every state, whatever the word fetched, ends in a next state: no outcome leaves
the machine. -/
def Obligations.EveryStepAnswersANextState : Prop :=
  ∀ (rand : Byte) (s : State), (∃ t, stepWith rand s = .next t) ∧ ∃ t, step s = .next t

/-- R251, and the counting of R250: the tick counts CADENCE up to 9; from 9 it starts again at 0 and both timers go
down by one, not below zero. Nothing else changes. -/
def Obligations.TimerTickCountsTen : Prop :=
  ∀ s : State,
    (s.cadence.val < 9 → (timerTick s).cadence.val = s.cadence.val + 1 ∧
      timerTick s = { s with cadence := (timerTick s).cadence }) ∧
    (s.cadence.val = 9 → (timerTick s).cadence = 0 ∧ (timerTick s).dt.toNat = s.dt.toNat - 1 ∧
      (timerTick s).st.toNat = s.st.toNat - 1 ∧
      timerTick s = { s with cadence := 0, dt := (timerTick s).dt, st := (timerTick s).st })

/-- From R250 and R252: after any number `k` of ticks, CADENCE has gone on by `k` modulo 10 and each timer has gone
down once for every time it passed 9, not below zero. -/
def Obligations.TicksDivideByTen : Prop :=
  ∀ (s : State) (k : Nat),
    ((timerTick^[k]) s).cadence.val = (s.cadence.val + k) % 10 ∧
    ((timerTick^[k]) s).dt.toNat = s.dt.toNat - (s.cadence.val + k) / 10 ∧
    ((timerTick^[k]) s).st.toNat = s.st.toNat - (s.cadence.val + k) / 10

/-- From R67 and R281: a byte that `Fx55` stores is the byte a later fetch reads: from the state after the store, a
fetch at the stored addresses gives the stored bytes, with no fence. -/
def Obligations.StoredBytesAreFetched : Prop :=
  ∀ (x : RegNum) (s t : State) (k : RegNum), s.memWf = true → s.i.toNat + x.val ≤ 0xFFF →
    exec (.storeRegs x) s = .next t → k < x → t.pc.toNat = s.i.toNat + k.val →
    fetch t = .ok (s.getV k, s.getV (k + 1))

/-! ### Reset and the host's ports -/

/-- From R41 and R270: an image of at most 3584 bytes: every piece of state takes its reset value and the image lies
at 0x200. The zeros of `V`, `I`, `STACK`, `DISP`, `KEYS`, `DT`, `ST`, `CADENCE` are the spec's decision D3. -/
def Obligations.ResetLoadsImage : Prop :=
  ∀ (image : List Byte) (s t : State), image.length ≤ 3584 → perform (.reset image) s = .next t →
    (∀ a : Fin 80, t.byteAt a.val = s.params.font[a.val]) ∧
    (∀ a, 80 ≤ a → a ≤ 0x1FF → t.byteAt a = 0) ∧
    (∀ k (h : k < image.length), t.byteAt (0x200 + k) = image[k]) ∧
    (∀ a, 0x200 + image.length ≤ a → a ≤ 0xFFF → t.byteAt a = 0) ∧
    t.pc = 0x200 ∧ (∀ x, t.getV x = 0) ∧ t.i = 0 ∧ t.stack = [] ∧ (∀ k, k < 2048 → readPixel k t = .ok false) ∧
    (∀ k : RegNum, t.keys[k.val] = false) ∧ t.dt = 0 ∧ t.st = 0 ∧ t.cadence = 0 ∧
    t.faultCode = 0 ∧ t.faultPc = 0 ∧ t.faultInfo = 0

/-- From R272: an image that fits is accepted; one of 3585 bytes or more faults PROGRAM_TOO_LARGE. -/
def Obligations.ResetRejectsLongImage : Prop :=
  ∀ (image : List Byte) (s : State),
    (image.length ≤ 3584 → ∃ t, perform (.reset image) s = .next t ∧ t.faultCode = 0) ∧
    (3584 < image.length →
      HaltsWith (perform (.reset image) s) s 7 0 image.length)

/-- From R41 (decision D3 of the spec, the default font of R27; log entries 2, 5, 6 and 8): `State.reset` is the state
after `Reset` with an empty image in the build with the default parameters; its memory reads as the default font at
every address 0 to 79 and as zero at every address 80 to 0xFFF, and nothing is listed in it. -/
def Obligations.ResetStateIsEmptyImageReset : Prop :=
  (∀ s : State, s.params = Config.defaults → s.rand = 0 → s.freeIx = 0 → resetWith [] s = State.reset) ∧
  State.reset.mem = [] ∧ State.reset.pc = 0x200 ∧ State.reset.faultCode = 0 ∧
  (∀ a : Fin 80, State.reset.byteAt a.val = Config.defaultFont[a.val]) ∧
  (∀ a, 80 ≤ a → a ≤ 0xFFF → State.reset.byteAt a = 0) ∧
  State.reset.byteAt 0 = 0xF0 ∧ State.reset.byteAt 79 = 0x80

/-- From R256 and R31: `SetKeys` replaces KEYS and nothing else, and no cycle writes KEYS. -/
def Obligations.OnlyTheHostWritesKeys : Prop :=
  (∀ (k16 : Vector Bool 16) (s : State), perform (.setKeys k16) s = .next { s with keys := k16 }) ∧
  (∀ (i : Instr) (s t : State), exec i s = .next t → t.keys = s.keys) ∧
  (∀ (rand : Byte) (s t : State), stepWith rand s = .next t → t.keys = s.keys)

/-- From R194 and R260, whose form is the spec's decisions D15 and D25: the ports read what the state holds:
`ReadPixel(k)` the cell at column `k mod 64` of row `k div 64`, refused from 2048 on; `ReadDisplay()` all 2048 cells
in index order; `ReadStatus()` the eight registers of R260. -/
def Obligations.PortsReadTheState : Prop :=
  ∀ s : State,
    (∀ k (h : k < 2048), readPixel k s = .ok ((s.disp[k / 64]'(by omega))[k % 64]'(by omega))) ∧
    (∀ k, 2048 ≤ k → readPixel k s = .error (.noSuchPixel k)) ∧
    (readDisplay s).length = 2048 ∧ (∀ k, k < 2048 → readPixel k s = .ok ((readDisplay s).getD k false)) ∧
    readStatus s = ⟨s.faultCode, s.faultPc, s.faultInfo, s.pc, s.i, s.dt, s.st, s.cadence⟩

/-! ### Rules of the whole machine -/

/-- The invariant holds at reset. -/
def Obligations.InvariantAtReset : Prop := State.reset.Inv

/-- From R26, R29, R36, R37: every step keeps the invariant, from every state that meets it. -/
def Obligations.StepKeepsInvariant : Prop :=
  ∀ s t : State, s.Inv → step s = .next t → t.Inv

/-- From R26, R29, R255: every host action keeps the invariant, for every random byte, image and set of keys. -/
def Obligations.HostActionsKeepInvariant : Prop :=
  ∀ (a : HostAction) (s t : State), s.Inv → perform a s = .next t → t.Inv

/-- From R26: a cycle that ends without a fault leaves `pc` at 0x10FE or below, whatever `pc` was before it. -/
def Obligations.PcStaysAtMost10FE : Prop :=
  ∀ (rand : Byte) (s t : State), s.running = true → (∀ w ∈ s.stack, w.toNat ≤ 0x1000) →
    stepWith rand s = .next t → t.faultCode = 0 → t.pc.toNat ≤ 0x10FE ∧ ∀ w ∈ t.stack, w.toNat ≤ 0x1000

/-- From R23: an instruction that ends without a fault changes a general register only as R23 lists: the loads, sums,
logic, shifts, RND, `Fx07` and `Fx0A` `V[x]`; `8xy4` to `8xy7` and `8xyE` also VF; `Fx65` `V[0]` to `V[x]`. -/
def Obligations.OnlyListedInstructionsWriteV : Prop :=
  ∀ (i : Instr) (s t : State) (j : RegNum), s.faultCode = 0 → exec i s = .next t → t.faultCode = 0 →
    t.getV j ≠ s.getV j →
    (∃ x nn, (i = .ldByte x nn ∨ i = .addByte x nn ∨ i = .rnd x nn) ∧ j = x) ∨
    (∃ x y, (i = .ldReg x y ∨ i = .orReg x y ∨ i = .andReg x y ∨ i = .xorReg x y) ∧ j = x) ∨
    (∃ x y, (i = .addReg x y ∨ i = .subReg x y ∨ i = .shr x y ∨ i = .subnReg x y ∨ i = .shl x y) ∧
      (j = x ∨ j = 15)) ∨
    (∃ x, (i = .ldVxDt x ∨ i = .ldVxK x) ∧ j = x) ∨ (∃ x, i = .loadRegs x ∧ j ≤ x)

/-- From R28, R29, R30, R32, R33, R52, R34, R37: an instruction that ends without a fault writes `I` only if it is
`Annn`, `Fx1E` or `Fx29`; STACK only if it is `2nnn` or `00EE`; DISP only if it is `00E0` or `Dxyn`; DT only if
`Fx15`; ST only if `Fx18`; a byte of MEM only if `Fx33` or `Fx55`; and never CADENCE, KEYS or the fault status. -/
def Obligations.OnlyListedInstructionsWriteSpecialState : Prop :=
  ∀ (i : Instr) (s t : State), s.faultCode = 0 → exec i s = .next t → t.faultCode = 0 →
    (t.i ≠ s.i → (∃ nnn, i = .ldI nnn) ∨ ∃ x, i = .addI x ∨ i = .ldFont x) ∧
    (t.stack ≠ s.stack → i = .ret ∨ ∃ nnn, i = .call nnn) ∧
    (t.disp ≠ s.disp → i = .cls ∨ ∃ x y n, i = .drw x y n) ∧
    (t.dt ≠ s.dt → ∃ x, i = .ldDtVx x) ∧
    (t.st ≠ s.st → ∃ x, i = .ldStVx x) ∧
    (t.mem ≠ s.mem → ∃ x, i = .ldBcd x ∨ i = .storeRegs x) ∧
    t.cadence = s.cadence ∧ t.keys = s.keys ∧ t.faultPc = s.faultPc ∧ t.faultInfo = s.faultInfo

/-- From R25: an instruction that ends without a fault writes `pc` only if it is a skip, `00EE`, `1nnn`, `2nnn`,
`Bnnn` or `Fx0A`. -/
def Obligations.OnlyListedInstructionsWritePc : Prop :=
  ∀ (i : Instr) (s t : State), s.faultCode = 0 → exec i s = .next t → t.faultCode = 0 → t.pc ≠ s.pc →
    i = .ret ∨ (∃ nnn, i = .jp nnn ∨ i = .call nnn ∨ i = .jpV0 nnn) ∨
    (∃ x nn, i = .seByte x nn ∨ i = .sneByte x nn) ∨ (∃ x y, i = .seReg x y ∨ i = .sneReg x y) ∨
    (∃ x, i = .skp x ∨ i = .sknp x ∨ i = .ldVxK x)

/-- From R33, R34, R38: no instruction reads ST or CADENCE: two execute steps from states that differ in ST and
CADENCE only record the same fault or none, and without a fault end in states that differ in ST and CADENCE at
most. -/
def Obligations.SoundTimerAndCadenceAreNeverRead : Prop :=
  ∀ (i : Instr) (s : State) (b : Byte) (c : Fin 10), ∃ t u, exec i s = .next t ∧
    exec i { s with st := b, cadence := c } = .next u ∧ u.faultCode = t.faultCode ∧ u.faultPc = t.faultPc ∧
    (t.faultCode = 0 → u = { t with st := u.st, cadence := u.cadence })

/-- R257: only `Cxnn` reads the random byte: a step whose instruction is no `Cxnn` records the same fault or none for
every byte, and without a fault ends in the same state, but for the model's own field that holds the byte. -/
def Obligations.OnlyRndReadsTheRandomByte : Prop :=
  ∀ (r r' : Byte) (s : State),
    (∀ x nn, decode (s.byteAt s.pc.toNat) (s.byteAt (s.pc.toNat + 1)) ≠ .rnd x nn) →
    ∃ t u, stepWith r s = .next t ∧ stepWith r' s = .next u ∧ u.faultCode = t.faultCode ∧ u.faultPc = t.faultPc ∧
      (t.faultCode = 0 → u = { t with rand := u.rand })

/-- From R21 and R7, for the model's own field `params` (log entry 2): no host action changes the parameters of the
build. -/
def Obligations.ParametersNeverChange : Prop :=
  ∀ (a : HostAction) (s t : State), perform a s = .next t → t.params = s.params

/-- For the model's own memory form (log entry 15): two memories in canonical form that read alike at every address
are the same list. -/
def Obligations.CanonicalMemoryIsUnique : Prop :=
  ∀ (base : Nat → Byte) (m m' : List Host.Cell), Memory.wf base m = true → Memory.wf base m' = true →
    (∀ a, a < 0x1000 → Memory.read base m a = Memory.read base m' a) → m = m'
end

