-- ==== Sys2Proof/Laws/Decode.lean ====
section
/-!
SUPPORT. The fields of a word written as a concatenation of its parts, and a word as the concatenation of its fields
(30_encoding.md R71, R74). A proof about decoding cites these, not the bit operations.
-/

namespace Sys2Proof

/-- A concatenation as a number: the left part is the high one. -/
theorem toNat_append_eq {m n : Nat} (a : BitVec m) (b : BitVec n) : (a ++ b).toNat = a.toNat * 2 ^ n + b.toNat := by
  rw [BitVec.toNat_append, ← Nat.shiftLeft_add_eq_or_of_lt b.isLt, Nat.shiftLeft_eq]

/-- A field of a word as a number. -/
theorem toNat_field (w : Word) (lo len : Nat) : (w.extractLsb' lo len).toNat = w.toNat / 2 ^ lo % 2 ^ len := by
  rw [BitVec.extractLsb'_toNat, Nat.shiftRight_eq_div_pow]

/-- The number of the word of a first nibble and twelve bits. -/
theorem toNat_word12 (a : BitVec 4) (l : BitVec 12) : (a ++ l : Word).toNat = a.toNat * 4096 + l.toNat :=
  toNat_append_eq a l

/-- The number of the word of two nibbles and a byte. -/
theorem toNat_word8 (a b : BitVec 4) (l : BitVec 8) :
    (a ++ b ++ l : Word).toNat = a.toNat * 4096 + b.toNat * 256 + l.toNat := by
  refine (toNat_append_eq (a ++ b) l).trans ?_
  rw [toNat_append_eq a b]
  omega

/-- The number of the word of four nibbles. -/
theorem toNat_word4 (a b c d : BitVec 4) :
    (a ++ b ++ c ++ d : Word).toNat = a.toNat * 4096 + b.toNat * 256 + c.toNat * 16 + d.toNat := by
  refine (toNat_append_eq (a ++ b ++ c) d).trans ?_
  rw [toNat_append_eq (a ++ b) c, toNat_append_eq a b]
  omega

theorem nibbleA_toNat (w : Word) : (nibbleA w).toNat = w.toNat / 4096 % 16 := toNat_field w 12 4
theorem nibbleD_toNat (w : Word) : (nibbleD w).toNat = w.toNat % 16 :=
  (toNat_field w 0 4).trans (by rw [Nat.pow_zero, Nat.div_one]; rfl)
theorem fieldX_val (w : Word) : (fieldX w).val = w.toNat / 256 % 16 := toNat_field w 8 4
theorem fieldY_val (w : Word) : (fieldY w).val = w.toNat / 16 % 16 := toNat_field w 4 4
theorem fieldN_val (w : Word) : (fieldN w).val = w.toNat % 16 :=
  (toNat_field w 0 4).trans (by rw [Nat.pow_zero, Nat.div_one]; rfl)
theorem fieldNN_toNat (w : Word) : (fieldNN w).toNat = w.toNat % 256 :=
  (toNat_field w 0 8).trans (by rw [Nat.pow_zero, Nat.div_one]; rfl)
theorem fieldNNN_toNat (w : Word) : (fieldNNN w).toNat = w.toNat % 4096 :=
  (toNat_field w 0 12).trans (by rw [Nat.pow_zero, Nat.div_one]; rfl)
theorem regBits_toNat (x : Fin 16) : (regBits x).toNat = x.val := rfl

/-- A word is its first nibble and its address field. -/
theorem word_eq_nnn (w : Word) : nibbleA w ++ fieldNNN w = w := by
  apply BitVec.eq_of_toNat_eq
  have h := toNat_word12 (nibbleA w) (fieldNNN w)
  rw [nibbleA_toNat, fieldNNN_toNat] at h
  have := w.isLt
  exact h.trans (by omega)

/-- A word is its first nibble, its register field and its immediate byte. -/
theorem word_eq_xnn (w : Word) : nibbleA w ++ regBits (fieldX w) ++ fieldNN w = w := by
  apply BitVec.eq_of_toNat_eq
  have h := toNat_word8 (nibbleA w) (regBits (fieldX w)) (fieldNN w)
  rw [nibbleA_toNat, regBits_toNat, fieldX_val, fieldNN_toNat] at h
  have := w.isLt
  exact h.trans (by omega)

/-- A word is its four nibbles. -/
theorem word_eq_xyd (w : Word) : nibbleA w ++ regBits (fieldX w) ++ regBits (fieldY w) ++ nibbleD w = w := by
  apply BitVec.eq_of_toNat_eq
  have h := toNat_word4 (nibbleA w) (regBits (fieldX w)) (regBits (fieldY w)) (nibbleD w)
  rw [nibbleA_toNat, regBits_toNat, fieldX_val, regBits_toNat, fieldY_val, nibbleD_toNat] at h
  have := w.isLt
  exact h.trans (by omega)

end Sys2Proof
end

