-- ==== Sys2Proof/Laws/Memory.lean ====
section
/-!
SUPPORT. The laws of the memory list: every operation keeps the canonical form, a read after a write to the same
address gives the byte written, and a write leaves every other address alone.
-/

namespace Sys2Proof.Machine

variable {base : Nat → Byte}

theorem Memory.wfFrom_le {m : List Host.Cell} {lo lo' : Nat} (h : Memory.wfFrom base lo' m = true) (hl : lo ≤ lo') :
    Memory.wfFrom base lo m = true := by
  cases m with
  | nil => rfl
  | cons c rest =>
    simp only [Memory.wfFrom, Bool.and_eq_true, decide_eq_true_eq] at h ⊢
    exact ⟨⟨⟨by omega, h.1.1.2⟩, h.1.2⟩, h.2⟩

/-- Below its first address a canonical memory reads as the reset contents. -/
theorem Memory.read_below {m : List Host.Cell} {lo a : Nat} (h : Memory.wfFrom base lo m = true) (ha : a < lo) :
    Memory.read base m a = base a := by
  induction m generalizing lo with
  | nil => rfl
  | cons c rest ih =>
    simp only [Memory.wfFrom, Bool.and_eq_true, decide_eq_true_eq] at h
    rw [Memory.read, if_neg (by omega)]
    exact ih h.2 (by omega)

/-- At and above 4096 a canonical memory reads as the reset contents. -/
theorem Memory.read_above {m : List Host.Cell} {lo a : Nat} (h : Memory.wfFrom base lo m = true)
    (ha : Config.memSize ≤ a) : Memory.read base m a = base a := by
  induction m generalizing lo with
  | nil => rfl
  | cons c rest ih =>
    simp only [Memory.wfFrom, Bool.and_eq_true, decide_eq_true_eq] at h
    rw [Memory.read, if_neg (by omega)]
    exact ih h.2

theorem Memory.write_wfFrom {m : List Host.Cell} {lo a : Nat} {v : Byte} (h : Memory.wfFrom base lo m = true)
    (hl : lo ≤ a) (ha : a < Config.memSize) : Memory.wfFrom base lo (Memory.write base m a v) = true := by
  induction m generalizing lo with
  | nil =>
    unfold Memory.write
    split
    · rfl
    · next hv => simp [Memory.wfFrom, hl, ha, hv]
  | cons c rest ih =>
    obtain ⟨b, w⟩ := c
    have h' := h
    simp only [Memory.wfFrom, Bool.and_eq_true, decide_eq_true_eq] at h'
    obtain ⟨⟨⟨hlb, hb⟩, hw⟩, hrest⟩ := h'
    unfold Memory.write
    split
    · next hab =>
      split
      · exact h
      · next hv =>
        simp only [Memory.wfFrom, Bool.and_eq_true, decide_eq_true_eq]
        exact ⟨⟨⟨hl, ha⟩, hv⟩, ⟨⟨by omega, hb⟩, hw⟩, hrest⟩
    · split
      · next _ hab =>
        subst hab
        split
        · exact Memory.wfFrom_le hrest (by omega)
        · next hv =>
          simp only [Memory.wfFrom, Bool.and_eq_true, decide_eq_true_eq]
          exact ⟨⟨⟨hl, ha⟩, hv⟩, hrest⟩
      · simp only [Memory.wfFrom, Bool.and_eq_true, decide_eq_true_eq]
        exact ⟨⟨⟨hlb, hb⟩, hw⟩, ih hrest (by omega)⟩

/-- A write keeps the canonical form. -/
theorem Memory.write_wf {m : List Host.Cell} {a : Nat} {v : Byte} (h : Memory.wf base m = true)
    (ha : a < Config.memSize) : Memory.wf base (Memory.write base m a v) = true :=
  Memory.write_wfFrom h (Nat.zero_le a) ha

/-- What a read after a write answers. -/
theorem Memory.read_writeFrom {m : List Host.Cell} {lo a b : Nat} {v : Byte} (h : Memory.wfFrom base lo m = true) :
    Memory.read base (Memory.write base m a v) b = if b = a then v else Memory.read base m b := by
  induction m generalizing lo with
  | nil =>
    unfold Memory.write
    split
    · next hv => split <;> simp_all [Memory.read]
    · simp [Memory.read]
  | cons c rest ih =>
    obtain ⟨c, w⟩ := c
    simp only [Memory.wfFrom, Bool.and_eq_true, decide_eq_true_eq] at h
    obtain ⟨_, hrest⟩ := h
    unfold Memory.write
    split
    · next hac =>
      split
      · next hv =>
        split
        · next hb =>
          subst hb
          rw [Memory.read, if_neg (by omega), hv, Memory.read_below hrest (by omega)]
        · rfl
      · rw [Memory.read]
    · split
      · next _ hac =>
        subst hac
        split
        · next hv =>
          split
          · next hb => subst hb; rw [hv, Memory.read_below hrest (by omega)]
          · next hb => rw [Memory.read, if_neg hb]
        · simp only [Memory.read]
          split <;> rfl
      · next hac hne =>
        simp only [Memory.read]
        split
        · next hb => rw [if_neg (by omega)]
        · exact ih hrest

theorem Memory.read_write {m : List Host.Cell} {a b : Nat} {v : Byte} (h : Memory.wf base m = true) :
    Memory.read base (Memory.write base m a v) b = if b = a then v else Memory.read base m b :=
  Memory.read_writeFrom h

theorem Memory.ofBytesFrom_wf (f : Nat → Byte) (lo n : Nat) (h : lo + n ≤ Config.memSize) :
    Memory.wfFrom base lo (Memory.ofBytesFrom base f lo n) = true := by
  induction n generalizing lo with
  | zero => rfl
  | succ n ih =>
    unfold Memory.ofBytesFrom
    split
    · exact Memory.wfFrom_le (ih (lo + 1) (by omega)) (by omega)
    · next hv =>
      simp only [Memory.wfFrom, Bool.and_eq_true, decide_eq_true_eq]
      exact ⟨⟨⟨by omega, by omega⟩, hv⟩, ih (lo + 1) (by omega)⟩

/-- A memory made of bytes is in canonical form. -/
theorem Memory.ofBytes_wf (f : Nat → Byte) : Memory.wf base (Memory.ofBytes base f) = true :=
  Memory.ofBytesFrom_wf f 0 Config.memSize (by simp)

theorem Memory.read_ofBytesFrom (f : Nat → Byte) (lo n a : Nat) (hl : lo ≤ a) (ha : a < lo + n)
    (hn : lo + n ≤ Config.memSize) : Memory.read base (Memory.ofBytesFrom base f lo n) a = f a := by
  induction n generalizing lo with
  | zero => omega
  | succ n ih =>
    unfold Memory.ofBytesFrom
    by_cases h : a = lo
    · subst h
      split
      · next hv => rw [Memory.read_below (Memory.ofBytesFrom_wf f (a + 1) n (by omega)) (by omega), hv]
      · rw [Memory.read, if_pos rfl]
    · split
      · exact ih (lo + 1) (by omega) (by omega) (by omega)
      · rw [Memory.read, if_neg h]
        exact ih (lo + 1) (by omega) (by omega) (by omega)

/-- A memory made of bytes reads as them. -/
theorem Memory.read_ofBytes (f : Nat → Byte) {a : Nat} (ha : a < Config.memSize) :
    Memory.read base (Memory.ofBytes base f) a = f a :=
  Memory.read_ofBytesFrom f 0 Config.memSize a (by omega) (by omega) (by omega)

/-- Storing bytes at addresses of the memory keeps the canonical form. -/
theorem Memory.writeAll_wf {m : List Host.Cell} {a : Nat} (bs : List Byte) (h : Memory.wf base m = true)
    (ha : a + bs.length ≤ Config.memSize) : Memory.wf base (Memory.writeAll base m a bs) = true := by
  induction bs generalizing m a with
  | nil => exact h
  | cons b bs ih =>
    simp only [List.length_cons] at ha
    exact ih (Memory.write_wf h (by omega)) (by omega)

/-- What a read after storing bytes at addresses of the memory answers. -/
theorem Memory.read_writeAll {m : List Host.Cell} {a : Nat} (bs : List Byte) (c : Nat) (h : Memory.wf base m = true)
    (ha : a + bs.length ≤ Config.memSize) :
    Memory.read base (Memory.writeAll base m a bs) c =
      if a ≤ c then bs.getD (c - a) (Memory.read base m c) else Memory.read base m c := by
  induction bs generalizing m a with
  | nil => simp [Memory.writeAll]
  | cons b bs ih =>
    simp only [List.length_cons] at ha
    rw [Memory.writeAll, ih (Memory.write_wf h (by omega)) (by omega), Memory.read_write h]
    by_cases hc : c = a
    · subst hc
      simp
    · by_cases hlt : a + 1 ≤ c
      · have e : c - a = (c - (a + 1)) + 1 := by omega
        simp [hlt, hc, show a ≤ c by omega, e]
      · simp [hlt, hc, show ¬ a ≤ c by omega]

end Sys2Proof.Machine
end

