-- ==== Sys2Proof/Laws/State.lean ====
section
/-!
SUPPORT. One lemma per field per named update of State, true by rfl, so that no proof unfolds a record update, and the
read-after-write lemmas of the register file.
-/

namespace Sys2Proof.Machine

/-! ### setV -/

@[simp] theorem State.setV_mem (s : State) (x : RegNum) (b : Byte) : (s.setV x b).mem = s.mem := rfl
@[simp] theorem State.setV_v (s : State) (x : RegNum) (b : Byte) : (s.setV x b).v = s.v.set x.val b := rfl
@[simp] theorem State.setV_i (s : State) (x : RegNum) (b : Byte) : (s.setV x b).i = s.i := rfl
@[simp] theorem State.setV_pc (s : State) (x : RegNum) (b : Byte) : (s.setV x b).pc = s.pc := rfl
@[simp] theorem State.setV_stack (s : State) (x : RegNum) (b : Byte) : (s.setV x b).stack = s.stack := rfl
@[simp] theorem State.setV_disp (s : State) (x : RegNum) (b : Byte) : (s.setV x b).disp = s.disp := rfl
@[simp] theorem State.setV_keys (s : State) (x : RegNum) (b : Byte) : (s.setV x b).keys = s.keys := rfl
@[simp] theorem State.setV_dt (s : State) (x : RegNum) (b : Byte) : (s.setV x b).dt = s.dt := rfl
@[simp] theorem State.setV_st (s : State) (x : RegNum) (b : Byte) : (s.setV x b).st = s.st := rfl
@[simp] theorem State.setV_cadence (s : State) (x : RegNum) (b : Byte) : (s.setV x b).cadence = s.cadence := rfl
@[simp] theorem State.setV_faultCode (s : State) (x : RegNum) (b : Byte) : (s.setV x b).faultCode = s.faultCode := rfl
@[simp] theorem State.setV_faultPc (s : State) (x : RegNum) (b : Byte) : (s.setV x b).faultPc = s.faultPc := rfl
@[simp] theorem State.setV_faultInfo (s : State) (x : RegNum) (b : Byte) : (s.setV x b).faultInfo = s.faultInfo := rfl
@[simp] theorem State.setV_params (s : State) (x : RegNum) (b : Byte) : (s.setV x b).params = s.params := rfl
@[simp] theorem State.setV_rand (s : State) (x : RegNum) (b : Byte) : (s.setV x b).rand = s.rand := rfl
@[simp] theorem State.setV_freeIx (s : State) (x : RegNum) (b : Byte) : (s.setV x b).freeIx = s.freeIx := rfl
@[simp] theorem State.setV_key (s : State) (x : RegNum) (b : Byte) (j : RegNum) : (s.setV x b).key j = s.key j := rfl
@[simp] theorem State.setV_byteAt (s : State) (x : RegNum) (b : Byte) (c' : Nat) : (s.setV x b).byteAt c' = s.byteAt c' := rfl
@[simp] theorem State.setV_resetByte (s : State) (x : RegNum) (b : Byte) (c' : Nat) : (s.setV x b).resetByte c' = s.resetByte c' := rfl
@[simp] theorem State.setV_running (s : State) (x : RegNum) (b : Byte)  : (s.setV x b).running = s.running := rfl
@[simp] theorem State.setV_ea (s : State) (x : RegNum) (b : Byte) (j : Nat) : (s.setV x b).ea j = s.ea j := rfl

/-! ### setI -/

@[simp] theorem State.setI_mem (s : State) (w : Word) : (s.setI w).mem = s.mem := rfl
@[simp] theorem State.setI_v (s : State) (w : Word) : (s.setI w).v = s.v := rfl
@[simp] theorem State.setI_i (s : State) (w : Word) : (s.setI w).i = w := rfl
@[simp] theorem State.setI_pc (s : State) (w : Word) : (s.setI w).pc = s.pc := rfl
@[simp] theorem State.setI_stack (s : State) (w : Word) : (s.setI w).stack = s.stack := rfl
@[simp] theorem State.setI_disp (s : State) (w : Word) : (s.setI w).disp = s.disp := rfl
@[simp] theorem State.setI_keys (s : State) (w : Word) : (s.setI w).keys = s.keys := rfl
@[simp] theorem State.setI_dt (s : State) (w : Word) : (s.setI w).dt = s.dt := rfl
@[simp] theorem State.setI_st (s : State) (w : Word) : (s.setI w).st = s.st := rfl
@[simp] theorem State.setI_cadence (s : State) (w : Word) : (s.setI w).cadence = s.cadence := rfl
@[simp] theorem State.setI_faultCode (s : State) (w : Word) : (s.setI w).faultCode = s.faultCode := rfl
@[simp] theorem State.setI_faultPc (s : State) (w : Word) : (s.setI w).faultPc = s.faultPc := rfl
@[simp] theorem State.setI_faultInfo (s : State) (w : Word) : (s.setI w).faultInfo = s.faultInfo := rfl
@[simp] theorem State.setI_params (s : State) (w : Word) : (s.setI w).params = s.params := rfl
@[simp] theorem State.setI_rand (s : State) (w : Word) : (s.setI w).rand = s.rand := rfl
@[simp] theorem State.setI_freeIx (s : State) (w : Word) : (s.setI w).freeIx = s.freeIx := rfl
@[simp] theorem State.setI_getV (s : State) (w : Word) (y : RegNum) : (s.setI w).getV y = s.getV y := rfl
@[simp] theorem State.setI_key (s : State) (w : Word) (j : RegNum) : (s.setI w).key j = s.key j := rfl
@[simp] theorem State.setI_byteAt (s : State) (w : Word) (c' : Nat) : (s.setI w).byteAt c' = s.byteAt c' := rfl
@[simp] theorem State.setI_resetByte (s : State) (w : Word) (c' : Nat) : (s.setI w).resetByte c' = s.resetByte c' := rfl
@[simp] theorem State.setI_running (s : State) (w : Word)  : (s.setI w).running = s.running := rfl

/-! ### setPc -/

@[simp] theorem State.setPc_mem (s : State) (w : Word) : (s.setPc w).mem = s.mem := rfl
@[simp] theorem State.setPc_v (s : State) (w : Word) : (s.setPc w).v = s.v := rfl
@[simp] theorem State.setPc_i (s : State) (w : Word) : (s.setPc w).i = s.i := rfl
@[simp] theorem State.setPc_pc (s : State) (w : Word) : (s.setPc w).pc = w := rfl
@[simp] theorem State.setPc_stack (s : State) (w : Word) : (s.setPc w).stack = s.stack := rfl
@[simp] theorem State.setPc_disp (s : State) (w : Word) : (s.setPc w).disp = s.disp := rfl
@[simp] theorem State.setPc_keys (s : State) (w : Word) : (s.setPc w).keys = s.keys := rfl
@[simp] theorem State.setPc_dt (s : State) (w : Word) : (s.setPc w).dt = s.dt := rfl
@[simp] theorem State.setPc_st (s : State) (w : Word) : (s.setPc w).st = s.st := rfl
@[simp] theorem State.setPc_cadence (s : State) (w : Word) : (s.setPc w).cadence = s.cadence := rfl
@[simp] theorem State.setPc_faultCode (s : State) (w : Word) : (s.setPc w).faultCode = s.faultCode := rfl
@[simp] theorem State.setPc_faultPc (s : State) (w : Word) : (s.setPc w).faultPc = s.faultPc := rfl
@[simp] theorem State.setPc_faultInfo (s : State) (w : Word) : (s.setPc w).faultInfo = s.faultInfo := rfl
@[simp] theorem State.setPc_params (s : State) (w : Word) : (s.setPc w).params = s.params := rfl
@[simp] theorem State.setPc_rand (s : State) (w : Word) : (s.setPc w).rand = s.rand := rfl
@[simp] theorem State.setPc_freeIx (s : State) (w : Word) : (s.setPc w).freeIx = s.freeIx := rfl
@[simp] theorem State.setPc_getV (s : State) (w : Word) (y : RegNum) : (s.setPc w).getV y = s.getV y := rfl
@[simp] theorem State.setPc_key (s : State) (w : Word) (j : RegNum) : (s.setPc w).key j = s.key j := rfl
@[simp] theorem State.setPc_byteAt (s : State) (w : Word) (c' : Nat) : (s.setPc w).byteAt c' = s.byteAt c' := rfl
@[simp] theorem State.setPc_resetByte (s : State) (w : Word) (c' : Nat) : (s.setPc w).resetByte c' = s.resetByte c' := rfl
@[simp] theorem State.setPc_running (s : State) (w : Word)  : (s.setPc w).running = s.running := rfl
@[simp] theorem State.setPc_ea (s : State) (w : Word) (j : Nat) : (s.setPc w).ea j = s.ea j := rfl

/-! ### setStack -/

@[simp] theorem State.setStack_mem (s : State) (l : List Word) : (s.setStack l).mem = s.mem := rfl
@[simp] theorem State.setStack_v (s : State) (l : List Word) : (s.setStack l).v = s.v := rfl
@[simp] theorem State.setStack_i (s : State) (l : List Word) : (s.setStack l).i = s.i := rfl
@[simp] theorem State.setStack_pc (s : State) (l : List Word) : (s.setStack l).pc = s.pc := rfl
@[simp] theorem State.setStack_stack (s : State) (l : List Word) : (s.setStack l).stack = l := rfl
@[simp] theorem State.setStack_disp (s : State) (l : List Word) : (s.setStack l).disp = s.disp := rfl
@[simp] theorem State.setStack_keys (s : State) (l : List Word) : (s.setStack l).keys = s.keys := rfl
@[simp] theorem State.setStack_dt (s : State) (l : List Word) : (s.setStack l).dt = s.dt := rfl
@[simp] theorem State.setStack_st (s : State) (l : List Word) : (s.setStack l).st = s.st := rfl
@[simp] theorem State.setStack_cadence (s : State) (l : List Word) : (s.setStack l).cadence = s.cadence := rfl
@[simp] theorem State.setStack_faultCode (s : State) (l : List Word) : (s.setStack l).faultCode = s.faultCode := rfl
@[simp] theorem State.setStack_faultPc (s : State) (l : List Word) : (s.setStack l).faultPc = s.faultPc := rfl
@[simp] theorem State.setStack_faultInfo (s : State) (l : List Word) : (s.setStack l).faultInfo = s.faultInfo := rfl
@[simp] theorem State.setStack_params (s : State) (l : List Word) : (s.setStack l).params = s.params := rfl
@[simp] theorem State.setStack_rand (s : State) (l : List Word) : (s.setStack l).rand = s.rand := rfl
@[simp] theorem State.setStack_freeIx (s : State) (l : List Word) : (s.setStack l).freeIx = s.freeIx := rfl
@[simp] theorem State.setStack_getV (s : State) (l : List Word) (y : RegNum) : (s.setStack l).getV y = s.getV y := rfl
@[simp] theorem State.setStack_key (s : State) (l : List Word) (j : RegNum) : (s.setStack l).key j = s.key j := rfl
@[simp] theorem State.setStack_byteAt (s : State) (l : List Word) (c' : Nat) : (s.setStack l).byteAt c' = s.byteAt c' := rfl
@[simp] theorem State.setStack_resetByte (s : State) (l : List Word) (c' : Nat) : (s.setStack l).resetByte c' = s.resetByte c' := rfl
@[simp] theorem State.setStack_running (s : State) (l : List Word)  : (s.setStack l).running = s.running := rfl
@[simp] theorem State.setStack_ea (s : State) (l : List Word) (j : Nat) : (s.setStack l).ea j = s.ea j := rfl

/-! ### setDt -/

@[simp] theorem State.setDt_mem (s : State) (b : Byte) : (s.setDt b).mem = s.mem := rfl
@[simp] theorem State.setDt_v (s : State) (b : Byte) : (s.setDt b).v = s.v := rfl
@[simp] theorem State.setDt_i (s : State) (b : Byte) : (s.setDt b).i = s.i := rfl
@[simp] theorem State.setDt_pc (s : State) (b : Byte) : (s.setDt b).pc = s.pc := rfl
@[simp] theorem State.setDt_stack (s : State) (b : Byte) : (s.setDt b).stack = s.stack := rfl
@[simp] theorem State.setDt_disp (s : State) (b : Byte) : (s.setDt b).disp = s.disp := rfl
@[simp] theorem State.setDt_keys (s : State) (b : Byte) : (s.setDt b).keys = s.keys := rfl
@[simp] theorem State.setDt_dt (s : State) (b : Byte) : (s.setDt b).dt = b := rfl
@[simp] theorem State.setDt_st (s : State) (b : Byte) : (s.setDt b).st = s.st := rfl
@[simp] theorem State.setDt_cadence (s : State) (b : Byte) : (s.setDt b).cadence = s.cadence := rfl
@[simp] theorem State.setDt_faultCode (s : State) (b : Byte) : (s.setDt b).faultCode = s.faultCode := rfl
@[simp] theorem State.setDt_faultPc (s : State) (b : Byte) : (s.setDt b).faultPc = s.faultPc := rfl
@[simp] theorem State.setDt_faultInfo (s : State) (b : Byte) : (s.setDt b).faultInfo = s.faultInfo := rfl
@[simp] theorem State.setDt_params (s : State) (b : Byte) : (s.setDt b).params = s.params := rfl
@[simp] theorem State.setDt_rand (s : State) (b : Byte) : (s.setDt b).rand = s.rand := rfl
@[simp] theorem State.setDt_freeIx (s : State) (b : Byte) : (s.setDt b).freeIx = s.freeIx := rfl
@[simp] theorem State.setDt_getV (s : State) (b : Byte) (y : RegNum) : (s.setDt b).getV y = s.getV y := rfl
@[simp] theorem State.setDt_key (s : State) (b : Byte) (j : RegNum) : (s.setDt b).key j = s.key j := rfl
@[simp] theorem State.setDt_byteAt (s : State) (b : Byte) (c' : Nat) : (s.setDt b).byteAt c' = s.byteAt c' := rfl
@[simp] theorem State.setDt_resetByte (s : State) (b : Byte) (c' : Nat) : (s.setDt b).resetByte c' = s.resetByte c' := rfl
@[simp] theorem State.setDt_running (s : State) (b : Byte)  : (s.setDt b).running = s.running := rfl
@[simp] theorem State.setDt_ea (s : State) (b : Byte) (j : Nat) : (s.setDt b).ea j = s.ea j := rfl

/-! ### setSt -/

@[simp] theorem State.setSt_mem (s : State) (b : Byte) : (s.setSt b).mem = s.mem := rfl
@[simp] theorem State.setSt_v (s : State) (b : Byte) : (s.setSt b).v = s.v := rfl
@[simp] theorem State.setSt_i (s : State) (b : Byte) : (s.setSt b).i = s.i := rfl
@[simp] theorem State.setSt_pc (s : State) (b : Byte) : (s.setSt b).pc = s.pc := rfl
@[simp] theorem State.setSt_stack (s : State) (b : Byte) : (s.setSt b).stack = s.stack := rfl
@[simp] theorem State.setSt_disp (s : State) (b : Byte) : (s.setSt b).disp = s.disp := rfl
@[simp] theorem State.setSt_keys (s : State) (b : Byte) : (s.setSt b).keys = s.keys := rfl
@[simp] theorem State.setSt_dt (s : State) (b : Byte) : (s.setSt b).dt = s.dt := rfl
@[simp] theorem State.setSt_st (s : State) (b : Byte) : (s.setSt b).st = b := rfl
@[simp] theorem State.setSt_cadence (s : State) (b : Byte) : (s.setSt b).cadence = s.cadence := rfl
@[simp] theorem State.setSt_faultCode (s : State) (b : Byte) : (s.setSt b).faultCode = s.faultCode := rfl
@[simp] theorem State.setSt_faultPc (s : State) (b : Byte) : (s.setSt b).faultPc = s.faultPc := rfl
@[simp] theorem State.setSt_faultInfo (s : State) (b : Byte) : (s.setSt b).faultInfo = s.faultInfo := rfl
@[simp] theorem State.setSt_params (s : State) (b : Byte) : (s.setSt b).params = s.params := rfl
@[simp] theorem State.setSt_rand (s : State) (b : Byte) : (s.setSt b).rand = s.rand := rfl
@[simp] theorem State.setSt_freeIx (s : State) (b : Byte) : (s.setSt b).freeIx = s.freeIx := rfl
@[simp] theorem State.setSt_getV (s : State) (b : Byte) (y : RegNum) : (s.setSt b).getV y = s.getV y := rfl
@[simp] theorem State.setSt_key (s : State) (b : Byte) (j : RegNum) : (s.setSt b).key j = s.key j := rfl
@[simp] theorem State.setSt_byteAt (s : State) (b : Byte) (c' : Nat) : (s.setSt b).byteAt c' = s.byteAt c' := rfl
@[simp] theorem State.setSt_resetByte (s : State) (b : Byte) (c' : Nat) : (s.setSt b).resetByte c' = s.resetByte c' := rfl
@[simp] theorem State.setSt_running (s : State) (b : Byte)  : (s.setSt b).running = s.running := rfl
@[simp] theorem State.setSt_ea (s : State) (b : Byte) (j : Nat) : (s.setSt b).ea j = s.ea j := rfl

/-! ### setCadence -/

@[simp] theorem State.setCadence_mem (s : State) (c : Fin 10) : (s.setCadence c).mem = s.mem := rfl
@[simp] theorem State.setCadence_v (s : State) (c : Fin 10) : (s.setCadence c).v = s.v := rfl
@[simp] theorem State.setCadence_i (s : State) (c : Fin 10) : (s.setCadence c).i = s.i := rfl
@[simp] theorem State.setCadence_pc (s : State) (c : Fin 10) : (s.setCadence c).pc = s.pc := rfl
@[simp] theorem State.setCadence_stack (s : State) (c : Fin 10) : (s.setCadence c).stack = s.stack := rfl
@[simp] theorem State.setCadence_disp (s : State) (c : Fin 10) : (s.setCadence c).disp = s.disp := rfl
@[simp] theorem State.setCadence_keys (s : State) (c : Fin 10) : (s.setCadence c).keys = s.keys := rfl
@[simp] theorem State.setCadence_dt (s : State) (c : Fin 10) : (s.setCadence c).dt = s.dt := rfl
@[simp] theorem State.setCadence_st (s : State) (c : Fin 10) : (s.setCadence c).st = s.st := rfl
@[simp] theorem State.setCadence_cadence (s : State) (c : Fin 10) : (s.setCadence c).cadence = c := rfl
@[simp] theorem State.setCadence_faultCode (s : State) (c : Fin 10) : (s.setCadence c).faultCode = s.faultCode := rfl
@[simp] theorem State.setCadence_faultPc (s : State) (c : Fin 10) : (s.setCadence c).faultPc = s.faultPc := rfl
@[simp] theorem State.setCadence_faultInfo (s : State) (c : Fin 10) : (s.setCadence c).faultInfo = s.faultInfo := rfl
@[simp] theorem State.setCadence_params (s : State) (c : Fin 10) : (s.setCadence c).params = s.params := rfl
@[simp] theorem State.setCadence_rand (s : State) (c : Fin 10) : (s.setCadence c).rand = s.rand := rfl
@[simp] theorem State.setCadence_freeIx (s : State) (c : Fin 10) : (s.setCadence c).freeIx = s.freeIx := rfl
@[simp] theorem State.setCadence_getV (s : State) (c : Fin 10) (y : RegNum) : (s.setCadence c).getV y = s.getV y := rfl
@[simp] theorem State.setCadence_key (s : State) (c : Fin 10) (j : RegNum) : (s.setCadence c).key j = s.key j := rfl
@[simp] theorem State.setCadence_byteAt (s : State) (c : Fin 10) (c' : Nat) : (s.setCadence c).byteAt c' = s.byteAt c' := rfl
@[simp] theorem State.setCadence_resetByte (s : State) (c : Fin 10) (c' : Nat) : (s.setCadence c).resetByte c' = s.resetByte c' := rfl
@[simp] theorem State.setCadence_running (s : State) (c : Fin 10)  : (s.setCadence c).running = s.running := rfl
@[simp] theorem State.setCadence_ea (s : State) (c : Fin 10) (j : Nat) : (s.setCadence c).ea j = s.ea j := rfl

/-! ### setDisp -/

@[simp] theorem State.setDisp_mem (s : State) (d : Display) : (s.setDisp d).mem = s.mem := rfl
@[simp] theorem State.setDisp_v (s : State) (d : Display) : (s.setDisp d).v = s.v := rfl
@[simp] theorem State.setDisp_i (s : State) (d : Display) : (s.setDisp d).i = s.i := rfl
@[simp] theorem State.setDisp_pc (s : State) (d : Display) : (s.setDisp d).pc = s.pc := rfl
@[simp] theorem State.setDisp_stack (s : State) (d : Display) : (s.setDisp d).stack = s.stack := rfl
@[simp] theorem State.setDisp_disp (s : State) (d : Display) : (s.setDisp d).disp = d := rfl
@[simp] theorem State.setDisp_keys (s : State) (d : Display) : (s.setDisp d).keys = s.keys := rfl
@[simp] theorem State.setDisp_dt (s : State) (d : Display) : (s.setDisp d).dt = s.dt := rfl
@[simp] theorem State.setDisp_st (s : State) (d : Display) : (s.setDisp d).st = s.st := rfl
@[simp] theorem State.setDisp_cadence (s : State) (d : Display) : (s.setDisp d).cadence = s.cadence := rfl
@[simp] theorem State.setDisp_faultCode (s : State) (d : Display) : (s.setDisp d).faultCode = s.faultCode := rfl
@[simp] theorem State.setDisp_faultPc (s : State) (d : Display) : (s.setDisp d).faultPc = s.faultPc := rfl
@[simp] theorem State.setDisp_faultInfo (s : State) (d : Display) : (s.setDisp d).faultInfo = s.faultInfo := rfl
@[simp] theorem State.setDisp_params (s : State) (d : Display) : (s.setDisp d).params = s.params := rfl
@[simp] theorem State.setDisp_rand (s : State) (d : Display) : (s.setDisp d).rand = s.rand := rfl
@[simp] theorem State.setDisp_freeIx (s : State) (d : Display) : (s.setDisp d).freeIx = s.freeIx := rfl
@[simp] theorem State.setDisp_getV (s : State) (d : Display) (y : RegNum) : (s.setDisp d).getV y = s.getV y := rfl
@[simp] theorem State.setDisp_key (s : State) (d : Display) (j : RegNum) : (s.setDisp d).key j = s.key j := rfl
@[simp] theorem State.setDisp_byteAt (s : State) (d : Display) (c' : Nat) : (s.setDisp d).byteAt c' = s.byteAt c' := rfl
@[simp] theorem State.setDisp_resetByte (s : State) (d : Display) (c' : Nat) : (s.setDisp d).resetByte c' = s.resetByte c' := rfl
@[simp] theorem State.setDisp_running (s : State) (d : Display)  : (s.setDisp d).running = s.running := rfl
@[simp] theorem State.setDisp_ea (s : State) (d : Display) (j : Nat) : (s.setDisp d).ea j = s.ea j := rfl

/-! ### setKeyFlags -/

@[simp] theorem State.setKeyFlags_mem (s : State) (k : Vector Bool 16) : (s.setKeyFlags k).mem = s.mem := rfl
@[simp] theorem State.setKeyFlags_v (s : State) (k : Vector Bool 16) : (s.setKeyFlags k).v = s.v := rfl
@[simp] theorem State.setKeyFlags_i (s : State) (k : Vector Bool 16) : (s.setKeyFlags k).i = s.i := rfl
@[simp] theorem State.setKeyFlags_pc (s : State) (k : Vector Bool 16) : (s.setKeyFlags k).pc = s.pc := rfl
@[simp] theorem State.setKeyFlags_stack (s : State) (k : Vector Bool 16) : (s.setKeyFlags k).stack = s.stack := rfl
@[simp] theorem State.setKeyFlags_disp (s : State) (k : Vector Bool 16) : (s.setKeyFlags k).disp = s.disp := rfl
@[simp] theorem State.setKeyFlags_keys (s : State) (k : Vector Bool 16) : (s.setKeyFlags k).keys = k := rfl
@[simp] theorem State.setKeyFlags_dt (s : State) (k : Vector Bool 16) : (s.setKeyFlags k).dt = s.dt := rfl
@[simp] theorem State.setKeyFlags_st (s : State) (k : Vector Bool 16) : (s.setKeyFlags k).st = s.st := rfl
@[simp] theorem State.setKeyFlags_cadence (s : State) (k : Vector Bool 16) : (s.setKeyFlags k).cadence = s.cadence := rfl
@[simp] theorem State.setKeyFlags_faultCode (s : State) (k : Vector Bool 16) : (s.setKeyFlags k).faultCode = s.faultCode := rfl
@[simp] theorem State.setKeyFlags_faultPc (s : State) (k : Vector Bool 16) : (s.setKeyFlags k).faultPc = s.faultPc := rfl
@[simp] theorem State.setKeyFlags_faultInfo (s : State) (k : Vector Bool 16) : (s.setKeyFlags k).faultInfo = s.faultInfo := rfl
@[simp] theorem State.setKeyFlags_params (s : State) (k : Vector Bool 16) : (s.setKeyFlags k).params = s.params := rfl
@[simp] theorem State.setKeyFlags_rand (s : State) (k : Vector Bool 16) : (s.setKeyFlags k).rand = s.rand := rfl
@[simp] theorem State.setKeyFlags_freeIx (s : State) (k : Vector Bool 16) : (s.setKeyFlags k).freeIx = s.freeIx := rfl
@[simp] theorem State.setKeyFlags_getV (s : State) (k : Vector Bool 16) (y : RegNum) : (s.setKeyFlags k).getV y = s.getV y := rfl
@[simp] theorem State.setKeyFlags_byteAt (s : State) (k : Vector Bool 16) (c' : Nat) : (s.setKeyFlags k).byteAt c' = s.byteAt c' := rfl
@[simp] theorem State.setKeyFlags_resetByte (s : State) (k : Vector Bool 16) (c' : Nat) : (s.setKeyFlags k).resetByte c' = s.resetByte c' := rfl
@[simp] theorem State.setKeyFlags_running (s : State) (k : Vector Bool 16)  : (s.setKeyFlags k).running = s.running := rfl
@[simp] theorem State.setKeyFlags_ea (s : State) (k : Vector Bool 16) (j : Nat) : (s.setKeyFlags k).ea j = s.ea j := rfl

/-! ### setByte -/

@[simp] theorem State.setByte_mem (s : State) (a : Nat) (b : Byte) : (s.setByte a b).mem = Memory.write s.resetByte s.mem a b := rfl
@[simp] theorem State.setByte_v (s : State) (a : Nat) (b : Byte) : (s.setByte a b).v = s.v := rfl
@[simp] theorem State.setByte_i (s : State) (a : Nat) (b : Byte) : (s.setByte a b).i = s.i := rfl
@[simp] theorem State.setByte_pc (s : State) (a : Nat) (b : Byte) : (s.setByte a b).pc = s.pc := rfl
@[simp] theorem State.setByte_stack (s : State) (a : Nat) (b : Byte) : (s.setByte a b).stack = s.stack := rfl
@[simp] theorem State.setByte_disp (s : State) (a : Nat) (b : Byte) : (s.setByte a b).disp = s.disp := rfl
@[simp] theorem State.setByte_keys (s : State) (a : Nat) (b : Byte) : (s.setByte a b).keys = s.keys := rfl
@[simp] theorem State.setByte_dt (s : State) (a : Nat) (b : Byte) : (s.setByte a b).dt = s.dt := rfl
@[simp] theorem State.setByte_st (s : State) (a : Nat) (b : Byte) : (s.setByte a b).st = s.st := rfl
@[simp] theorem State.setByte_cadence (s : State) (a : Nat) (b : Byte) : (s.setByte a b).cadence = s.cadence := rfl
@[simp] theorem State.setByte_faultCode (s : State) (a : Nat) (b : Byte) : (s.setByte a b).faultCode = s.faultCode := rfl
@[simp] theorem State.setByte_faultPc (s : State) (a : Nat) (b : Byte) : (s.setByte a b).faultPc = s.faultPc := rfl
@[simp] theorem State.setByte_faultInfo (s : State) (a : Nat) (b : Byte) : (s.setByte a b).faultInfo = s.faultInfo := rfl
@[simp] theorem State.setByte_params (s : State) (a : Nat) (b : Byte) : (s.setByte a b).params = s.params := rfl
@[simp] theorem State.setByte_rand (s : State) (a : Nat) (b : Byte) : (s.setByte a b).rand = s.rand := rfl
@[simp] theorem State.setByte_freeIx (s : State) (a : Nat) (b : Byte) : (s.setByte a b).freeIx = s.freeIx := rfl
@[simp] theorem State.setByte_getV (s : State) (a : Nat) (b : Byte) (y : RegNum) : (s.setByte a b).getV y = s.getV y := rfl
@[simp] theorem State.setByte_key (s : State) (a : Nat) (b : Byte) (j : RegNum) : (s.setByte a b).key j = s.key j := rfl
@[simp] theorem State.setByte_resetByte (s : State) (a : Nat) (b : Byte) (c' : Nat) : (s.setByte a b).resetByte c' = s.resetByte c' := rfl
@[simp] theorem State.setByte_running (s : State) (a : Nat) (b : Byte)  : (s.setByte a b).running = s.running := rfl
@[simp] theorem State.setByte_ea (s : State) (a : Nat) (b : Byte) (j : Nat) : (s.setByte a b).ea j = s.ea j := rfl

/-! ### The register file -/

@[simp] theorem State.getV_setV_same (s : State) (x : RegNum) (b : Byte) : (s.setV x b).getV x = b := by
  simp [State.getV, State.setV]

theorem State.getV_setV_ne (s : State) {x y : RegNum} (b : Byte) (h : y ≠ x) : (s.setV x b).getV y = s.getV y := by
  have : x.val ≠ y.val := fun e => h (Fin.ext e.symm)
  simp [State.getV, State.setV, this]

theorem State.getV_setV (s : State) (x y : RegNum) (b : Byte) :
    (s.setV x b).getV y = if y = x then b else s.getV y := by
  split
  · next h => subst h; simp
  · next h => exact State.getV_setV_ne s b h

/-- Two register files that read alike are equal. -/
theorem regs_ext {v w : Vector Byte 16} (h : ∀ x : RegNum, v[x.val] = w[x.val]) : v = w :=
  Vector.ext fun i hi => h ⟨i, hi⟩

/-- A state that differs from `s` in general registers only is `s` with those registers. -/
theorem State.setV_eq (s : State) (x : RegNum) (b : Byte) : s.setV x b = { s with v := (s.setV x b).v } := rfl

/-! ### The display -/

theorem Display.cell_toggle (d : Display) (k j : Fin 2048) :
    Display.cell (Display.toggle d k) j = if j = k then !Display.cell d j else Display.cell d j := by
  unfold Display.toggle
  by_cases hr : k.val / 64 = j.val / 64
  · by_cases hc : k.val % 64 = j.val % 64
    · have : j = k := Fin.ext (by omega)
      subst this
      simp [Display.cell]
    · have hne : j ≠ k := fun e => hc (by rw [e])
      simp [Display.cell, hr, hne, hc]
  · have hne : j ≠ k := fun e => hr (by rw [e])
    simp [Display.cell, hr, hne]

@[simp] theorem Display.cell_blank (k : Fin 2048) : Display.cell Display.blank k = false := by
  simp [Display.cell, Display.blank]

/-- Two displays whose cells agree are equal. -/
theorem Display.ext_cells {d e : Display} (h : ∀ k, Display.cell d k = Display.cell e k) : d = e := by
  refine Vector.ext fun r hr => Vector.ext fun c hc => ?_
  have := h ⟨r * 64 + c, by omega⟩
  simpa [Display.cell, Nat.mul_add_div, show (r * 64 + c) / 64 = r by omega, show (r * 64 + c) % 64 = c by omega] using this

end Sys2Proof.Machine
end

