-- ==== Sys2Proof/Laws/Ops.lean ====
section
/-!
SUPPORT. For each shared operation, what it can do, said once: a proof about an instruction cites these and does not
unfold the operation.
-/

namespace Sys2Proof.Machine

/-! ### Taking a fault, ending an execute step -/

@[simp] theorem takeFault_faultCode (f : Fatal) (a : Word) (s : State) :
    (takeFault f a s).faultCode = faultNumber f.code := rfl
@[simp] theorem takeFault_faultPc (f : Fatal) (a : Word) (s : State) : (takeFault f a s).faultPc = a := rfl
@[simp] theorem takeFault_keys (f : Fatal) (a : Word) (s : State) : (takeFault f a s).keys = s.keys := rfl
@[simp] theorem takeFault_params (f : Fatal) (a : Word) (s : State) : (takeFault f a s).params = s.params := rfl
@[simp] theorem takeFault_rand (f : Fatal) (a : Word) (s : State) : (takeFault f a s).rand = s.rand := rfl
@[simp] theorem takeFault_freeIx (f : Fatal) (a : Word) (s : State) : (takeFault f a s).freeIx = s.freeIx + 1 := rfl

/-- A value of at most 32 bits is recorded as it is. -/
theorem takeFault_faultInfo {f : Fatal} (a : Word) (s : State) (h : f.info < 2 ^ 32) :
    (takeFault f a s).faultInfo = BitVec.ofNat 32 f.info := by
  simp only [takeFault, infoWord, if_pos h]

theorem takeFault_memWf (f : Fatal) (a : Word) (s : State) : (takeFault f a s).memWf = true :=
  Memory.ofBytes_wf _

theorem faultNumber_ne_zero (c : FaultCode) : faultNumber c ≠ 0 := by cases c <;> decide

theorem faultNumber_le (c : FaultCode) : (faultNumber c).toNat ≤ 8 := by cases c <;> decide

/-- A core that has taken a fault does not run. -/
@[simp] theorem takeFault_running (f : Fatal) (a : Word) (s : State) : (takeFault f a s).running = false := by
  simpa [State.running] using faultNumber_ne_zero f.code

@[simp] theorem complete_ok (s t : State) : complete s (.ok t) = .next t := rfl
@[simp] theorem complete_error (s : State) (f : Fatal) : complete s (.error f) = .next (takeFault f s.fetchPc s) := rfl

/-- An execute step that can fault ends in a next state: the one it reached, or the fault taken. -/
theorem complete_next {s t : State} {r : Except Fatal State} (h : complete s r = .next t) :
    r = .ok t ∨ ∃ f, r = .error f ∧ t = takeFault f s.fetchPc s := by
  cases r with
  | ok u => simp only [complete_ok, Host.Outcome.next.injEq] at h; exact .inl (by rw [h])
  | error f => simp only [complete_error, Host.Outcome.next.injEq] at h; exact .inr ⟨f, rfl, h.symm⟩

/-! ### Memory primitives -/

theorem memRead_ok {s : State} {a : Nat} (h : a ≤ 0xFFF) : memRead s a = .ok (s.byteAt a) := if_neg (by omega)

theorem memRead_error {s : State} {a : Nat} (h : 0xFFF < a) : memRead s a = .error ⟨.memOutOfRange, a⟩ := if_pos h

theorem memWrite_ok {s : State} {a : Nat} {b : Byte} (h : a ≤ 0xFFF) : memWrite s a b = .ok (s.setByte a b) :=
  if_neg (by omega)

theorem memWrite_error {s : State} {a : Nat} {b : Byte} (h : 0xFFF < a) :
    memWrite s a b = .error ⟨.memOutOfRange, a⟩ := if_pos h

/-- A byte reads back after a store, and a store leaves every other address alone. -/
theorem State.byteAt_setByte {s : State} (h : s.memWf = true) (a c : Nat) (b : Byte) :
    (s.setByte a b).byteAt c = if c = a then b else s.byteAt c := Memory.read_write h

theorem State.setByte_memWf {s : State} (h : s.memWf = true) {a : Nat} (ha : a ≤ 0xFFF) (b : Byte) :
    (s.setByte a b).memWf = true :=
  Memory.write_wf h (show a < Config.memSize by simp only [Config.memSize]; omega)

/-- Stores that all fit: the memory takes every byte, and nothing else changes. -/
theorem storeBytes_ok {s : State} {a : Nat} {bs : List Byte} (h : a + bs.length ≤ 0x1000) :
    storeBytes a bs s = .ok { s with mem := Memory.writeAll s.resetByte s.mem a bs } := by
  induction bs generalizing s a with
  | nil => rfl
  | cons b bs ih =>
    simp only [List.length_cons] at h
    rw [storeBytes, memWrite_ok (by omega)]
    exact ih (by omega)

/-- Stores that do not all fit: the fault of the first address that does not exist. -/
theorem storeBytes_error {s : State} {a : Nat} {bs : List Byte} (h : 0x1000 < a + bs.length) (hne : bs ≠ []) :
    storeBytes a bs s = .error ⟨.memOutOfRange, max a 0x1000⟩ := by
  induction bs generalizing s a with
  | nil => exact absurd rfl hne
  | cons b bs ih =>
    simp only [List.length_cons] at h
    by_cases ha : a ≤ 0xFFF
    · rw [storeBytes, memWrite_ok ha]
      have : bs ≠ [] := by rintro rfl; simp at h; omega
      have e := ih (s := s.setByte a b) (a := a + 1) (by omega) this
      simp only [e]
      congr 2
      omega
    · rw [storeBytes, memWrite_error (by omega), max_eq_left (by omega)]

/-- Reads that all fit. -/
theorem readBytes_ok {s : State} {a n : Nat} (h : a + n ≤ 0x1000) :
    readBytes s a n = .ok ((List.range n).map fun k => s.byteAt (a + k)) := by
  induction n generalizing a with
  | zero => rfl
  | succ n ih =>
    rw [readBytes, memRead_ok (by omega)]
    simp only [ih (show a + 1 + n ≤ 0x1000 by omega)]
    rw [List.range_succ_eq_map]
    simp [Nat.add_assoc, Nat.add_comm 1]

/-- Reads that do not all fit: the fault of the first address that does not exist. -/
theorem readBytes_error {s : State} {a n : Nat} (h : 0x1000 < a + n) (hn : 0 < n) :
    readBytes s a n = .error ⟨.memOutOfRange, max a 0x1000⟩ := by
  induction n generalizing a with
  | zero => omega
  | succ n ih =>
    by_cases ha : a ≤ 0xFFF
    · rw [readBytes, memRead_ok ha]
      simp only [ih (a := a + 1) (by omega) (by omega)]
      congr 2
      omega
    · rw [readBytes, memRead_error (by omega), max_eq_left (by omega)]

/-- The registers after a load of a list of bytes from register `k` on. -/
theorem loadV_getElem (k : Nat) (bs : List Byte) (v : Vector Byte 16) (x : RegNum) :
    (loadV k bs v)[x.val] = if k ≤ x.val then bs.getD (x.val - k) v[x.val] else v[x.val] := by
  induction bs generalizing k v with
  | nil => simp [loadV]
  | cons b bs ih =>
    rw [loadV, ih, Vector.getElem_setIfInBounds]
    by_cases h : x.val = k
    · simp [h]
    · by_cases hlt : k + 1 ≤ x.val
      · have e : x.val - k = (x.val - (k + 1)) + 1 := by omega
        simp [hlt, show k ≤ x.val by omega, e, show ¬ k = x.val by omega]
      · simp [hlt, show ¬ k ≤ x.val by omega, show ¬ k = x.val by omega]

theorem State.regsUpTo_length (s : State) (x : RegNum) : (s.regsUpTo x).length = x.val + 1 := by
  simp [State.regsUpTo]

theorem State.regsUpTo_getElem (s : State) (x : RegNum) {k : Nat} (h : k < x.val + 1) :
    (s.regsUpTo x)[k]'(by rw [s.regsUpTo_length]; exact h) = s.getV ⟨k, by omega⟩ := by
  simp [State.regsUpTo, State.getV]

/-! ### The skip, the stack, the keys -/

/-- A conditional skip writes `pc` alone. -/
theorem skipIf_eq (c : Bool) (s : State) : skipIf c s = s.setPc (if c then s.pc + 2 else s.pc) := by cases c <;> rfl

/-- By R231's account a stack fault records the value of the fault's row. -/
theorem stackFaultValue_tableRow {s : State} (n : Nat) (h : s.params.stackFaultInfo = .tableRow) :
    stackFaultValue s n = n := by simp [stackFaultValue, h]

/-- By the account of R102 and R104 a stack fault records the fetch address. -/
theorem stackFaultValue_fetchAddress {s : State} (n : Nat) (h : s.params.stackFaultInfo = .fetchAddress) :
    stackFaultValue s n = (s.pc - 2).toNat := by simp [stackFaultValue, h, State.fetchPc]

theorem push_unbounded {s : State} (w : Word) (h : s.params.stackCapacity = none) :
    push s w = .ok (s.setStack (s.stack ++ [w])) := by simp [push, h]

theorem push_below {s : State} {cap : Nat} (w : Word) (h : s.params.stackCapacity = some cap)
    (hl : s.stack.length ≠ cap) : push s w = .ok (s.setStack (s.stack ++ [w])) := by simp [push, h, hl]

theorem push_full {s : State} {cap : Nat} (w : Word) (h : s.params.stackCapacity = some cap)
    (hl : s.stack.length = cap) : push s w = .error ⟨.stackOverflow, stackFaultValue s cap⟩ := by
  simp [push, h, hl]

theorem pop_empty {s : State} (h : s.stack = []) : pop s = .error ⟨.stackUnderflow, stackFaultValue s 0⟩ := by
  simp [pop, h]

theorem pop_top {s : State} {l : List Word} {w : Word} (h : s.stack = l ++ [w]) : pop s = .ok (w, s.setStack l) := by
  simp [pop, h]

theorem keyHeld_ok {s : State} (k : RegNum) : keyHeld s k.val = .ok (s.key k) := by simp [keyHeld]

theorem keyHeld_error {s : State} {k : Nat} (h : 15 < k) : keyHeld s k = .error ⟨.keyOutOfRange, k⟩ :=
  dif_neg (by omega)

/-- The first held key: held, and no key below it is. -/
theorem firstHeldFrom_some {keys : Vector Bool 16} {k n j : Nat} (h : firstHeldFrom keys k n = some j) :
    k ≤ j ∧ j < k + n ∧ keys[j]? = some true ∧ ∀ i, k ≤ i → i < j → keys[i]?.getD false = false := by
  induction n generalizing k with
  | zero => simp [firstHeldFrom] at h
  | succ n ih =>
    unfold firstHeldFrom at h
    split at h
    · next hk =>
      obtain rfl : k = j := by simpa using h
      refine ⟨le_refl _, by omega, ?_, fun i hi hj => by omega⟩
      cases e : keys[k]? with
      | none => simp [e] at hk
      | some b => simp [e] at hk; rw [hk]
    · next hk =>
      obtain ⟨h1, h2, h3, h4⟩ := ih h
      refine ⟨by omega, by omega, h3, fun i hi hj => ?_⟩
      by_cases hik : i = k
      · subst hik; simpa using hk
      · exact h4 i (by omega) hj

theorem firstHeldFrom_none {keys : Vector Bool 16} {k n : Nat} (h : firstHeldFrom keys k n = none) :
    ∀ i, k ≤ i → i < k + n → keys[i]?.getD false = false := by
  induction n generalizing k with
  | zero => intro i hi hj; omega
  | succ n ih =>
    unfold firstHeldFrom at h
    split at h
    · cases h
    · next hk =>
      intro i hi hj
      by_cases hik : i = k
      · subst hik; simpa using hk
      · exact ih h i (by omega) (by omega)

/-- The first held key is the one that is held with no key below it held. -/
theorem State.firstHeld_some {s : State} {j : Nat} (h : s.firstHeld = some j) :
    ∃ hj : j < 16, s.key ⟨j, hj⟩ = true ∧ ∀ i : RegNum, i.val < j → s.key i = false := by
  obtain ⟨_, h2, h3, h4⟩ := firstHeldFrom_some h
  have hj : j < 16 := by omega
  refine ⟨hj, ?_, fun i hi => ?_⟩
  · simpa [State.key, hj] using h3
  · simpa [State.key, i.isLt] using h4 i.val (Nat.zero_le _) hi

theorem State.firstHeld_none {s : State} (h : s.firstHeld = none) (i : RegNum) : s.key i = false := by
  simpa [State.key, i.isLt] using firstHeldFrom_none h i.val (Nat.zero_le _) (by omega)

/-! ### Drawing -/

theorem togglePixel_ok {k : Nat} (d : Display) (h : k < 2048) : togglePixel k d = .ok (Display.toggle d ⟨k, h⟩) :=
  dif_pos h

theorem togglePixel_error {k : Nat} (d : Display) (h : 2048 ≤ k) :
    togglePixel k d = .error ⟨.displayOutOfRange, k⟩ := dif_neg (by omega)

/-- A row whose set bits all have a cell: exactly their cells change. -/
theorem drawRow_ok {ox oy row : Nat} {bits : Byte} {cols : List Nat} (d : Display) (hn : cols.Nodup)
    (h : ∀ col ∈ cols, spriteBit bits col = true → linearIndex ox oy col row < 2048) :
    ∃ e, drawRow ox oy row bits cols d = .ok e ∧ ∀ j : Fin 2048,
      (Display.cell e j ≠ Display.cell d j ↔
        ∃ col ∈ cols, spriteBit bits col = true ∧ linearIndex ox oy col row = j.val) := by
  induction cols generalizing d with
  | nil => exact ⟨d, rfl, by simp⟩
  | cons col cols ih =>
    obtain ⟨hcol, hn⟩ := List.nodup_cons.mp hn
    have hrest := fun c hc => h c (List.mem_cons_of_mem _ hc)
    by_cases hb : spriteBit bits col = true
    · have hk := h col List.mem_cons_self hb
      obtain ⟨e, he, hcell⟩ := ih (Display.toggle d ⟨_, hk⟩) hn hrest
      refine ⟨e, by simp only [drawRow, hb, if_true, togglePixel_ok d hk, he], fun j => ?_⟩
      have hj := hcell j
      rw [Display.cell_toggle] at hj
      by_cases hjk : j = ⟨_, hk⟩
      · have hno : ¬ ∃ c ∈ cols, spriteBit bits c = true ∧ linearIndex ox oy c row = j.val := by
          rintro ⟨c, hc, _, hcj⟩
          rw [hjk] at hcj
          simp only [linearIndex] at hcj
          exact hcol (by rwa [show col = c by omega])
        rw [if_pos hjk] at hj
        have heq := not_not.mp (mt hj.mp hno)
        constructor
        · intro _; exact ⟨col, List.mem_cons_self, hb, by rw [hjk]⟩
        · intro _; rw [heq]; cases Display.cell d j <;> simp
      · rw [if_neg hjk] at hj
        rw [hj]
        constructor
        · rintro ⟨c, hc, r⟩; exact ⟨c, List.mem_cons_of_mem _ hc, r⟩
        · rintro ⟨c, hc, hcb, hcj⟩
          rcases List.mem_cons.mp hc with rfl | hc
          · exact absurd (Fin.ext hcj.symm) hjk
          · exact ⟨c, hc, hcb, hcj⟩
    · obtain ⟨e, he, hcell⟩ := ih d hn hrest
      refine ⟨e, by simp [drawRow, hb, he], fun j => (hcell j).trans ?_⟩
      constructor
      · rintro ⟨c, hc, r⟩; exact ⟨c, List.mem_cons_of_mem _ hc, r⟩
      · rintro ⟨c, hc, hcb, hcj⟩
        rcases List.mem_cons.mp hc with rfl | hc
        · exact absurd hcb hb
        · exact ⟨c, hc, hcb, hcj⟩

/-- A row with a set bit that has no cell: the fault of the first such bit. -/
theorem drawRow_error {ox oy row col : Nat} {bits : Byte} {pre post : List Nat} (d : Display)
    (hpre : ∀ c ∈ pre, spriteBit bits c = true → linearIndex ox oy c row < 2048) (hb : spriteBit bits col = true)
    (hk : 2048 ≤ linearIndex ox oy col row) :
    drawRow ox oy row bits (pre ++ col :: post) d = .error ⟨.displayOutOfRange, linearIndex ox oy col row⟩ := by
  induction pre generalizing d with
  | nil => simp [drawRow, hb, togglePixel_error d hk]
  | cons c pre ih =>
    have hrest := fun c' hc => hpre c' (List.mem_cons_of_mem _ hc)
    by_cases hcb : spriteBit bits c = true
    · simp [drawRow, hcb, togglePixel_ok d (hpre c List.mem_cons_self hcb), ih _ hrest]
    · simp [drawRow, hcb, ih _ hrest]

/-- The set bits of a sprite row have a cell each. -/
def rowFits (s : State) (ox oy row : Nat) : Prop :=
  s.ea row ≤ 0xFFF ∧
    ∀ col ∈ List.range 8, spriteBit (s.byteAt (s.ea row)) col = true → linearIndex ox oy col row < 2048

/-- A sprite whose rows are all readable and whose set bits all have a cell: exactly their cells change. -/
theorem drawRows_ok {s : State} {ox oy : Nat} {rows : List Nat} (d : Display) (hn : rows.Nodup)
    (h : ∀ row ∈ rows, rowFits s ox oy row) :
    ∃ e, drawRows s ox oy rows d = .ok e ∧ ∀ j : Fin 2048,
      (Display.cell e j ≠ Display.cell d j ↔
        ∃ row ∈ rows, ∃ col ∈ List.range 8, spriteBit (s.byteAt (s.ea row)) col = true ∧
          linearIndex ox oy col row = j.val) := by
  induction rows generalizing d with
  | nil => exact ⟨d, rfl, by simp⟩
  | cons row rows ih =>
    obtain ⟨hrow, hn⟩ := List.nodup_cons.mp hn
    obtain ⟨hread, hbits⟩ := h row List.mem_cons_self
    obtain ⟨d1, hd1, hcell1⟩ := drawRow_ok d List.nodup_range hbits
    obtain ⟨e, he, hcell⟩ := ih d1 hn fun r hr => h r (List.mem_cons_of_mem _ hr)
    refine ⟨e, by simp only [drawRows, memRead_ok hread, hd1, he], fun j => ?_⟩
    have h1 := hcell1 j
    have h2 := hcell j
    by_cases hthis : ∃ col ∈ List.range 8, spriteBit (s.byteAt (s.ea row)) col = true ∧
        linearIndex ox oy col row = j.val
    · have hno : ¬ ∃ r ∈ rows, ∃ col ∈ List.range 8, spriteBit (s.byteAt (s.ea r)) col = true ∧
          linearIndex ox oy col r = j.val := by
        rintro ⟨r, hr, c, hc, _, hcj⟩
        obtain ⟨c0, hc0, _, hc0j⟩ := hthis
        rw [List.mem_range] at hc hc0
        simp only [linearIndex] at hcj hc0j
        exact hrow (by rwa [show row = r by omega])
      have heq := not_not.mp (mt h2.mp hno)
      rw [heq, h1]
      exact ⟨fun ⟨c, r⟩ => ⟨row, List.mem_cons_self, c, r⟩, fun _ => hthis⟩
    · have heq := not_not.mp (mt h1.mp hthis)
      rw [← heq, h2]
      constructor
      · rintro ⟨r, hr, rest⟩; exact ⟨r, List.mem_cons_of_mem _ hr, rest⟩
      · rintro ⟨r, hr, rest⟩
        rcases List.mem_cons.mp hr with rfl | hr
        · exact absurd rest hthis
        · exact ⟨r, hr, rest⟩

/-- Rows that fit, then more rows: the drawing of the rest starts from a display the first rows left. -/
theorem drawRows_append {s : State} {ox oy : Nat} {pre post : List Nat} (d : Display)
    (h : ∀ row ∈ pre, rowFits s ox oy row) :
    ∃ e, drawRows s ox oy (pre ++ post) d = drawRows s ox oy post e := by
  induction pre generalizing d with
  | nil => exact ⟨d, rfl⟩
  | cons row pre ih =>
    obtain ⟨hread, hbits⟩ := h row List.mem_cons_self
    obtain ⟨d1, hd1, _⟩ := drawRow_ok d List.nodup_range hbits
    obtain ⟨e, he⟩ := ih d1 fun r hr => h r (List.mem_cons_of_mem _ hr)
    exact ⟨e, by simp only [List.cons_append, drawRows, memRead_ok hread, hd1, he]⟩

/-! ### The fetch and the timer tick -/

theorem fetch_ok {s : State} (h : s.pc.toNat + 1 ≤ 0xFFF) :
    fetch s = .ok (s.byteAt s.pc.toNat, s.byteAt (s.pc.toNat + 1)) := if_neg (by omega)

theorem fetch_error {s : State} (h : 0xFFF < s.pc.toNat + 1) : fetch s = .error ⟨.fetchOutOfRange, s.pc.toNat⟩ :=
  if_pos h

theorem countDown_toNat (t : Byte) : (countDown t).toNat = t.toNat - 1 := by
  unfold countDown
  split
  · next h => subst h; rfl
  · next h =>
    have : t.toNat ≠ 0 := fun e => h (BitVec.eq_of_toNat_eq (by simpa using e))
    have ht := t.isLt
    rw [BitVec.toNat_sub]
    simp
    omega

/-- The two ends of a tick: the count goes on, or both timers are decremented and it starts again. -/
theorem timerTick_cases (s : State) :
    (∃ h : s.cadence.val + 1 < 10, timerTick s = s.setCadence ⟨s.cadence.val + 1, h⟩) ∨
    (s.cadence.val = 9 ∧
      timerTick s = ((s.setDt (countDown s.dt)).setSt (countDown s.st)).setCadence 0) := by
  by_cases h : s.cadence.val + 1 < Config.timerCadence
  · exact .inl ⟨h, dif_pos h⟩
  · exact .inr ⟨by have := s.cadence.isLt; simp only [Config.timerCadence] at h; omega, dif_neg h⟩

/-- A halted core's step changes nothing. -/
theorem stepWith_halted {s : State} (rand : Byte) (h : s.running = false) : stepWith rand s = .next s := by
  simp [stepWith, h]

/-- A running core's step is a cycle. -/
theorem stepWith_running {s : State} (rand : Byte) (h : s.running = true) :
    stepWith rand s = runCycle (beginCycle rand s) := by
  simp [stepWith, h]

end Sys2Proof.Machine
end

