-- ==== Sys2Proof/Laws/PerInstr.lean ====
section
/-!
SUPPORT. The statements made of every instruction as syntax, one lemma per constructor.

RowMatch: the word an instruction encodes to has the fixed bits of the instruction's row of the opcode map
(30_encoding.md R79). The catch-all has no row.
-/

open Sys2Proof

/-- The rows of the opcode map that carry the instruction's mnemonic select the instruction's word. -/
def Sys2Proof.Laws.RowMatch.Statement (i : Instr) : Prop :=
  i.wellFormed = true →
    (opcodeMap.filter fun r => r.mnemonic == i.mnemonic).all (fun r => r.selects (encode i)) = true

/-- The mask of a row that fixes the first nibble. -/
theorem Sys2Proof.Laws.RowMatch.and_F000 (a : BitVec 4) (l : BitVec 12) : (a ++ l) &&& 0xF000#16 = a ++ 0x000#12 := by
  rw [show 0xF000#16 = 0xF#4 ++ 0x000#12 from rfl, BitVec.and_append, BitVec.and_zero,
    show a &&& 0xF#4 = a by revert a; decide]

/-- The same for a word written with two fields after the first nibble. -/
theorem Sys2Proof.Laws.RowMatch.and_F000' (a b : BitVec 4) (c : BitVec 8) :
    (a ++ b ++ c) &&& 0xF000#16 = a ++ 0x0#4 ++ 0x00#8 := by
  rw [show 0xF000#16 = 0xF#4 ++ 0x0#4 ++ 0x00#8 from rfl, BitVec.and_append, BitVec.and_append, BitVec.and_zero,
    BitVec.and_zero, show a &&& 0xF#4 = a by revert a; decide]

/-- The same for a word written with three fields after the first nibble. -/
theorem Sys2Proof.Laws.RowMatch.and_F000'' (a b c d : BitVec 4) :
    (a ++ b ++ c ++ d) &&& 0xF000#16 = a ++ 0x0#4 ++ 0x0#4 ++ 0x0#4 := by
  rw [show 0xF000#16 = 0xF#4 ++ 0x0#4 ++ 0x0#4 ++ 0x0#4 from rfl, BitVec.and_append, BitVec.and_append,
    BitVec.and_append, BitVec.and_zero, BitVec.and_zero, BitVec.and_zero, show a &&& 0xF#4 = a by revert a; decide]

/-- The mask of a row that fixes the first and the last nibble. -/
theorem Sys2Proof.Laws.RowMatch.and_F00F (a b c d : BitVec 4) :
    (a ++ b ++ c ++ d) &&& 0xF00F#16 = a ++ 0x0#4 ++ 0x0#4 ++ d := by
  rw [show 0xF00F#16 = 0xF#4 ++ 0x0#4 ++ 0x0#4 ++ 0xF#4 from rfl, BitVec.and_append, BitVec.and_append,
    BitVec.and_append, BitVec.and_zero, BitVec.and_zero, show a &&& 0xF#4 = a by revert a; decide,
    show d &&& 0xF#4 = d by revert d; decide]

/-- The mask of a row that fixes the first nibble and the low byte. -/
theorem Sys2Proof.Laws.RowMatch.and_F0FF (a b : BitVec 4) (c : BitVec 8) :
    (a ++ b ++ c) &&& 0xF0FF#16 = a ++ 0x0#4 ++ c := by
  rw [show 0xF0FF#16 = 0xF#4 ++ 0x0#4 ++ 0xFF#8 from rfl, BitVec.and_append, BitVec.and_append, BitVec.and_zero,
    show a &&& 0xF#4 = a by revert a; decide, show c &&& 0xFF#8 = c from BitVec.and_allOnes]

/-- The one row of an instruction's mnemonic, and its bits in the word. -/
theorem Sys2Proof.Laws.RowMatch.of_row {i : Instr} {r : OpcodeRow}
    (h : (opcodeMap.filter fun r => r.mnemonic == i.mnemonic) = [r]) (hr : encode i &&& r.mask = r.bits) :
    Sys2Proof.Laws.RowMatch.Statement i := by
  intro _
  rw [h]
  simp [OpcodeRow.selects, hr]

theorem Sys2Proof.Laws.RowMatch.nop : Sys2Proof.Laws.RowMatch.Statement (.nop) := 
  Sys2Proof.Laws.RowMatch.of_row (r := ⟨0x0000, 0xFFFF, "NOP"⟩) rfl rfl

theorem Sys2Proof.Laws.RowMatch.cls : Sys2Proof.Laws.RowMatch.Statement (.cls) := 
  Sys2Proof.Laws.RowMatch.of_row (r := ⟨0x00E0, 0xFFFF, "CLS"⟩) rfl rfl

theorem Sys2Proof.Laws.RowMatch.ret : Sys2Proof.Laws.RowMatch.Statement (.ret) := 
  Sys2Proof.Laws.RowMatch.of_row (r := ⟨0x00EE, 0xFFFF, "RET"⟩) rfl rfl

theorem Sys2Proof.Laws.RowMatch.jp (nnn : Addr12) : Sys2Proof.Laws.RowMatch.Statement (.jp nnn) := 
  Sys2Proof.Laws.RowMatch.of_row (r := ⟨0x1000, 0xF000, "JP_addr"⟩) rfl (Sys2Proof.Laws.RowMatch.and_F000 _ _)

theorem Sys2Proof.Laws.RowMatch.call (nnn : Addr12) : Sys2Proof.Laws.RowMatch.Statement (.call nnn) := 
  Sys2Proof.Laws.RowMatch.of_row (r := ⟨0x2000, 0xF000, "CALL_addr"⟩) rfl (Sys2Proof.Laws.RowMatch.and_F000 _ _)

theorem Sys2Proof.Laws.RowMatch.seByte (x : RegNum) (nn : Byte) : Sys2Proof.Laws.RowMatch.Statement (.seByte x nn) := 
  Sys2Proof.Laws.RowMatch.of_row (r := ⟨0x3000, 0xF000, "SE_Vx__byte"⟩) rfl (Sys2Proof.Laws.RowMatch.and_F000' _ _ _)

theorem Sys2Proof.Laws.RowMatch.sneByte (x : RegNum) (nn : Byte) : Sys2Proof.Laws.RowMatch.Statement (.sneByte x nn) := 
  Sys2Proof.Laws.RowMatch.of_row (r := ⟨0x4000, 0xF000, "SNE_Vx__byte"⟩) rfl (Sys2Proof.Laws.RowMatch.and_F000' _ _ _)

theorem Sys2Proof.Laws.RowMatch.seReg (x : RegNum) (y : RegNum) : Sys2Proof.Laws.RowMatch.Statement (.seReg x y) := 
  Sys2Proof.Laws.RowMatch.of_row (r := ⟨0x5000, 0xF00F, "SE_Vx__Vy"⟩) rfl (Sys2Proof.Laws.RowMatch.and_F00F _ _ _ _)

theorem Sys2Proof.Laws.RowMatch.ldByte (x : RegNum) (nn : Byte) : Sys2Proof.Laws.RowMatch.Statement (.ldByte x nn) := 
  Sys2Proof.Laws.RowMatch.of_row (r := ⟨0x6000, 0xF000, "LD_Vx__byte"⟩) rfl (Sys2Proof.Laws.RowMatch.and_F000' _ _ _)

theorem Sys2Proof.Laws.RowMatch.addByte (x : RegNum) (nn : Byte) : Sys2Proof.Laws.RowMatch.Statement (.addByte x nn) := 
  Sys2Proof.Laws.RowMatch.of_row (r := ⟨0x7000, 0xF000, "ADD_Vx__byte"⟩) rfl (Sys2Proof.Laws.RowMatch.and_F000' _ _ _)

theorem Sys2Proof.Laws.RowMatch.ldReg (x : RegNum) (y : RegNum) : Sys2Proof.Laws.RowMatch.Statement (.ldReg x y) := 
  Sys2Proof.Laws.RowMatch.of_row (r := ⟨0x8000, 0xF00F, "LD_Vx__Vy"⟩) rfl (Sys2Proof.Laws.RowMatch.and_F00F _ _ _ _)

theorem Sys2Proof.Laws.RowMatch.orReg (x : RegNum) (y : RegNum) : Sys2Proof.Laws.RowMatch.Statement (.orReg x y) := 
  Sys2Proof.Laws.RowMatch.of_row (r := ⟨0x8001, 0xF00F, "OR_Vx__Vy"⟩) rfl (Sys2Proof.Laws.RowMatch.and_F00F _ _ _ _)

theorem Sys2Proof.Laws.RowMatch.andReg (x : RegNum) (y : RegNum) : Sys2Proof.Laws.RowMatch.Statement (.andReg x y) := 
  Sys2Proof.Laws.RowMatch.of_row (r := ⟨0x8002, 0xF00F, "AND_Vx__Vy"⟩) rfl (Sys2Proof.Laws.RowMatch.and_F00F _ _ _ _)

theorem Sys2Proof.Laws.RowMatch.xorReg (x : RegNum) (y : RegNum) : Sys2Proof.Laws.RowMatch.Statement (.xorReg x y) := 
  Sys2Proof.Laws.RowMatch.of_row (r := ⟨0x8003, 0xF00F, "XOR_Vx__Vy"⟩) rfl (Sys2Proof.Laws.RowMatch.and_F00F _ _ _ _)

theorem Sys2Proof.Laws.RowMatch.addReg (x : RegNum) (y : RegNum) : Sys2Proof.Laws.RowMatch.Statement (.addReg x y) := 
  Sys2Proof.Laws.RowMatch.of_row (r := ⟨0x8004, 0xF00F, "ADD_Vx__Vy"⟩) rfl (Sys2Proof.Laws.RowMatch.and_F00F _ _ _ _)

theorem Sys2Proof.Laws.RowMatch.subReg (x : RegNum) (y : RegNum) : Sys2Proof.Laws.RowMatch.Statement (.subReg x y) := 
  Sys2Proof.Laws.RowMatch.of_row (r := ⟨0x8005, 0xF00F, "SUB_Vx__Vy"⟩) rfl (Sys2Proof.Laws.RowMatch.and_F00F _ _ _ _)

theorem Sys2Proof.Laws.RowMatch.shr (x : RegNum) (y : RegNum) : Sys2Proof.Laws.RowMatch.Statement (.shr x y) := 
  Sys2Proof.Laws.RowMatch.of_row (r := ⟨0x8006, 0xF00F, "SHR_Vx____Vy"⟩) rfl (Sys2Proof.Laws.RowMatch.and_F00F _ _ _ _)

theorem Sys2Proof.Laws.RowMatch.subnReg (x : RegNum) (y : RegNum) : Sys2Proof.Laws.RowMatch.Statement (.subnReg x y) := 
  Sys2Proof.Laws.RowMatch.of_row (r := ⟨0x8007, 0xF00F, "SUBN_Vx__Vy"⟩) rfl (Sys2Proof.Laws.RowMatch.and_F00F _ _ _ _)

theorem Sys2Proof.Laws.RowMatch.shl (x : RegNum) (y : RegNum) : Sys2Proof.Laws.RowMatch.Statement (.shl x y) := 
  Sys2Proof.Laws.RowMatch.of_row (r := ⟨0x800E, 0xF00F, "SHL_Vx____Vy"⟩) rfl (Sys2Proof.Laws.RowMatch.and_F00F _ _ _ _)

theorem Sys2Proof.Laws.RowMatch.sneReg (x : RegNum) (y : RegNum) : Sys2Proof.Laws.RowMatch.Statement (.sneReg x y) := 
  Sys2Proof.Laws.RowMatch.of_row (r := ⟨0x9000, 0xF00F, "SNE_Vx__Vy"⟩) rfl (Sys2Proof.Laws.RowMatch.and_F00F _ _ _ _)

theorem Sys2Proof.Laws.RowMatch.ldI (nnn : Addr12) : Sys2Proof.Laws.RowMatch.Statement (.ldI nnn) := 
  Sys2Proof.Laws.RowMatch.of_row (r := ⟨0xA000, 0xF000, "LD_I__addr"⟩) rfl (Sys2Proof.Laws.RowMatch.and_F000 _ _)

theorem Sys2Proof.Laws.RowMatch.jpV0 (nnn : Addr12) : Sys2Proof.Laws.RowMatch.Statement (.jpV0 nnn) := 
  Sys2Proof.Laws.RowMatch.of_row (r := ⟨0xB000, 0xF000, "JP_V0__addr"⟩) rfl (Sys2Proof.Laws.RowMatch.and_F000 _ _)

theorem Sys2Proof.Laws.RowMatch.rnd (x : RegNum) (nn : Byte) : Sys2Proof.Laws.RowMatch.Statement (.rnd x nn) := 
  Sys2Proof.Laws.RowMatch.of_row (r := ⟨0xC000, 0xF000, "RND_Vx__byte"⟩) rfl (Sys2Proof.Laws.RowMatch.and_F000' _ _ _)

theorem Sys2Proof.Laws.RowMatch.drw (x : RegNum) (y : RegNum) (n : RowCount) : Sys2Proof.Laws.RowMatch.Statement (.drw x y n) := 
  Sys2Proof.Laws.RowMatch.of_row (r := ⟨0xD000, 0xF000, "DRW_Vx__Vy__nibble"⟩) rfl (Sys2Proof.Laws.RowMatch.and_F000'' _ _ _ _)

theorem Sys2Proof.Laws.RowMatch.skp (x : RegNum) : Sys2Proof.Laws.RowMatch.Statement (.skp x) := 
  Sys2Proof.Laws.RowMatch.of_row (r := ⟨0xE09E, 0xF0FF, "SKP_Vx"⟩) rfl (Sys2Proof.Laws.RowMatch.and_F0FF _ _ _)

theorem Sys2Proof.Laws.RowMatch.sknp (x : RegNum) : Sys2Proof.Laws.RowMatch.Statement (.sknp x) := 
  Sys2Proof.Laws.RowMatch.of_row (r := ⟨0xE0A1, 0xF0FF, "SKNP_Vx"⟩) rfl (Sys2Proof.Laws.RowMatch.and_F0FF _ _ _)

theorem Sys2Proof.Laws.RowMatch.ldVxDt (x : RegNum) : Sys2Proof.Laws.RowMatch.Statement (.ldVxDt x) := 
  Sys2Proof.Laws.RowMatch.of_row (r := ⟨0xF007, 0xF0FF, "LD_Vx__DT"⟩) rfl (Sys2Proof.Laws.RowMatch.and_F0FF _ _ _)

theorem Sys2Proof.Laws.RowMatch.ldVxK (x : RegNum) : Sys2Proof.Laws.RowMatch.Statement (.ldVxK x) := 
  Sys2Proof.Laws.RowMatch.of_row (r := ⟨0xF00A, 0xF0FF, "LD_Vx__K"⟩) rfl (Sys2Proof.Laws.RowMatch.and_F0FF _ _ _)

theorem Sys2Proof.Laws.RowMatch.ldDtVx (x : RegNum) : Sys2Proof.Laws.RowMatch.Statement (.ldDtVx x) := 
  Sys2Proof.Laws.RowMatch.of_row (r := ⟨0xF015, 0xF0FF, "LD_DT__Vx"⟩) rfl (Sys2Proof.Laws.RowMatch.and_F0FF _ _ _)

theorem Sys2Proof.Laws.RowMatch.ldStVx (x : RegNum) : Sys2Proof.Laws.RowMatch.Statement (.ldStVx x) := 
  Sys2Proof.Laws.RowMatch.of_row (r := ⟨0xF018, 0xF0FF, "LD_ST__Vx"⟩) rfl (Sys2Proof.Laws.RowMatch.and_F0FF _ _ _)

theorem Sys2Proof.Laws.RowMatch.addI (x : RegNum) : Sys2Proof.Laws.RowMatch.Statement (.addI x) := 
  Sys2Proof.Laws.RowMatch.of_row (r := ⟨0xF01E, 0xF0FF, "ADD_I__Vx"⟩) rfl (Sys2Proof.Laws.RowMatch.and_F0FF _ _ _)

theorem Sys2Proof.Laws.RowMatch.ldFont (x : RegNum) : Sys2Proof.Laws.RowMatch.Statement (.ldFont x) := 
  Sys2Proof.Laws.RowMatch.of_row (r := ⟨0xF029, 0xF0FF, "LD_F__Vx"⟩) rfl (Sys2Proof.Laws.RowMatch.and_F0FF _ _ _)

theorem Sys2Proof.Laws.RowMatch.ldBcd (x : RegNum) : Sys2Proof.Laws.RowMatch.Statement (.ldBcd x) := 
  Sys2Proof.Laws.RowMatch.of_row (r := ⟨0xF033, 0xF0FF, "LD_B__Vx"⟩) rfl (Sys2Proof.Laws.RowMatch.and_F0FF _ _ _)

theorem Sys2Proof.Laws.RowMatch.storeRegs (x : RegNum) : Sys2Proof.Laws.RowMatch.Statement (.storeRegs x) := 
  Sys2Proof.Laws.RowMatch.of_row (r := ⟨0xF055, 0xF0FF, "LD__I___Vx"⟩) rfl (Sys2Proof.Laws.RowMatch.and_F0FF _ _ _)

theorem Sys2Proof.Laws.RowMatch.loadRegs (x : RegNum) : Sys2Proof.Laws.RowMatch.Statement (.loadRegs x) := 
  Sys2Proof.Laws.RowMatch.of_row (r := ⟨0xF065, 0xF0FF, "LD_Vx___I"⟩) rfl (Sys2Proof.Laws.RowMatch.and_F0FF _ _ _)

theorem Sys2Proof.Laws.RowMatch.unrecognised (w : Word) : Sys2Proof.Laws.RowMatch.Statement (.unrecognised w) := fun _ => rfl
end

