-- ==== Sys2Proof/Tests/Slice0.lean ====
section
/-!
SUPPORT. The model's own tests. The expected results are those of the vectors of spec/95_test_vectors.md (named E1, J3,
A10, …) and of the examples of the rules, not of the model. What the spec leaves unspecified (all but the fault status and
KEYS after a fault) is not tested. After them, one witness per statement with hypotheses: a state and operands that meet
them all, for each clause.
-/

namespace Sys2Proof.Tests
open Sys2Proof.Machine

/-- The next state of an outcome. -/
def after : Result → State
  | .next t => t
  | _ => State.reset

/-- The reset state with these general registers. -/
def regs (l : List (RegNum × Byte)) : State := l.foldl (fun s p => s.setV p.1 p.2) State.reset

/-- One whole cycle that fetches the word `w` at `pc`, with the random byte 0xA5. -/
def cycle (w : Nat) (s : State) : State := after (stepWith 0xA5 (s.withFetchWord 16 w))

/-- The fault status. -/
def status (s : State) : BitVec 4 × Word × BitVec 32 := (s.faultCode, s.faultPc, s.faultInfo)

/-- The cells that are on, of the indexes listed. -/
def lit (s : State) (l : List Nat) : List Bool :=
  l.map fun k => match readPixel k s with
    | .ok b => b
    | .error _ => false

/-! ### Well-formedness, and the encodings -/

theorem test_unrecognised_named_words_ill_formed :
    (Instr.unrecognised 0x0000).wellFormed = false ∧ (Instr.unrecognised 0x00E0).wellFormed = false ∧
    (Instr.unrecognised 0x00EE).wellFormed = false ∧ (Instr.unrecognised 0x1234).wellFormed = false ∧
    (Instr.unrecognised 0x5120).wellFormed = false ∧ (Instr.unrecognised 0x8AB7).wellFormed = false ∧
    (Instr.unrecognised 0x9120).wellFormed = false ∧ (Instr.unrecognised 0xD010).wellFormed = false ∧
    (Instr.unrecognised 0xE39E).wellFormed = false ∧ (Instr.unrecognised 0xF565).wellFormed = false := by decide

/-- The words of the vector E6. -/
theorem test_unrecognised_words_well_formed :
    ([0x0123, 0x5121, 0x8008, 0x800F, 0x9121, 0xE19F, 0xF175, 0x00FF] : List Word).map decodeWord =
      [.unrecognised 0x0123, .unrecognised 0x5121, .unrecognised 0x8008, .unrecognised 0x800F, .unrecognised 0x9121,
        .unrecognised 0xE19F, .unrecognised 0xF175, .unrecognised 0x00FF] ∧
    ([0x0123, 0x5121, 0x8008, 0x800F, 0x9121, 0xE19F, 0xF175, 0x00FF] : List Word).all unrecognisedWord = true := by
  decide

/-- The rows of R79's table are pairwise disjoint: two rows differ in a bit that both fix (R78). -/
theorem test_opcode_map_disjoint :
    opcodeMap.Pairwise fun r q => r.bits &&& (r.mask &&& q.mask) ≠ q.bits &&& (r.mask &&& q.mask) := by decide

theorem test_opcode_map_rows : opcodeMap.length = 35 := by decide

/-- The vector E1: the fields of D125 from its two bytes. -/
theorem test_decode_bytes : decode 0xD1 0x25 = .drw 1 2 5 ∧
    decodeBytes [0xD1, 0x25, 0xAA] = .ok (.drw 1 2 5, [0xAA]) := ⟨by decide, rfl⟩

theorem test_decode_truncated : decodeBytes [0xD1] = .error .truncated := rfl

theorem test_decode_system : decodeWord 0x0000 = .nop ∧ decodeWord 0x00E0 = .cls ∧ decodeWord 0x00EE = .ret ∧
    decodeWord 0x1FFF = .jp 0xFFF ∧ decodeWord 0x2300 = .call 0x300 ∧ decodeWord 0xB5A7 = .jpV0 0x5A7 := by decide

theorem test_decode_skips : decodeWord 0x322A = .seByte 2 0x2A ∧ decodeWord 0x422B = .sneByte 2 0x2B ∧
    decodeWord 0x5120 = .seReg 1 2 ∧ decodeWord 0x9120 = .sneReg 1 2 ∧ decodeWord 0xE39E = .skp 3 ∧
    decodeWord 0xE3A1 = .sknp 3 := by decide

theorem test_decode_alu : decodeWord 0x60AB = .ldByte 0 0xAB ∧ decodeWord 0x7FFF = .addByte 15 0xFF ∧
    decodeWord 0x8AB0 = .ldReg 10 11 ∧ decodeWord 0x8AB1 = .orReg 10 11 ∧ decodeWord 0x8AB2 = .andReg 10 11 ∧
    decodeWord 0x8AB3 = .xorReg 10 11 ∧ decodeWord 0x8AB4 = .addReg 10 11 ∧ decodeWord 0x8AB5 = .subReg 10 11 ∧
    decodeWord 0x8AB6 = .shr 10 11 ∧ decodeWord 0x8AB7 = .subnReg 10 11 ∧ decodeWord 0x8ABE = .shl 10 11 ∧
    decodeWord 0xC30F = .rnd 3 0x0F := by decide

theorem test_decode_index_memory : decodeWord 0xA2F0 = .ldI 0x2F0 ∧ decodeWord 0xF51E = .addI 5 ∧
    decodeWord 0xF529 = .ldFont 5 ∧ decodeWord 0xFA33 = .ldBcd 10 ∧ decodeWord 0xFF55 = .storeRegs 15 ∧
    decodeWord 0xF265 = .loadRegs 2 := by decide

theorem test_decode_display_timer_key : decodeWord 0xD010 = .drw 0 1 0 ∧ decodeWord 0xF307 = .ldVxDt 3 ∧
    decodeWord 0xF50A = .ldVxK 5 ∧ decodeWord 0xF015 = .ldDtVx 0 ∧ decodeWord 0xF118 = .ldStVx 1 := by decide

theorem test_encode_words : encode (.drw 1 2 5) = 0xD125 ∧ encode (.jpV0 0x5A7) = 0xB5A7 ∧
    encode (.loadRegs 15) = 0xFF65 ∧ encodeBytes (.ldByte 6 0x9D) = [0x66, 0x9D] := by decide

/-! ### The cycle -/

/-- E2. -/
theorem test_fetch_last_word : let t := cycle 0x0000 { State.reset with pc := 0xFFE }
    t.pc = 0x1000 ∧ t.faultCode = 0 := by decide

/-- E3 and E4. -/
theorem test_fetch_out_of_range :
    status (after (stepWith 0 { State.reset with pc := 0xFFF })) = (1, 0xFFF, 0xFFF) ∧
    (after (stepWith 0 { State.reset with pc := 0x1000 })).faultPc = 0x1000 := by decide

/-- E5: an odd address. -/
theorem test_fetch_odd : let t := cycle 0x6007 { State.reset with pc := 0x201 }
    t.getV 0 = 7 ∧ t.pc = 0x203 := by decide

/-- E7 and E8: the tick of the tenth cycle. -/
theorem test_tick : let t := cycle 0x0000 { State.reset with cadence := 9, dt := 3, st := 0 }
    t.cadence = 0 ∧ t.dt = 2 ∧ t.st = 0 := by decide

/-- E9: no step of a halted core changes anything. -/
theorem test_halted : let s := { State.reset with faultCode := 4, pc := 0x234 }
    stepWith 7 s = .next s := rfl

theorem test_unrecognised : let t := cycle 0x5121 (regs [(1, 7), (2, 7)])
    t.pc = 0x202 ∧ t.cadence = 1 ∧ t.getV 1 = 7 := by decide

/-! ### System and control transfer -/

/-- J1. -/
theorem test_nop : cycle 0x0000 State.reset =
    { State.reset with pc := 0x202, cadence := 1, rand := 0xA5, freeIx := 1 } := by decide

/-- J2. -/
theorem test_cls : let d := Display.toggle (Display.toggle Display.blank 0) 2047
    let t := cycle 0x00E0 { State.reset with disp := d }
    Display.cell d 0 = true ∧ Display.cell d 2047 = true ∧ lit t [0, 1, 2047] = [false, false, false] := by decide

/-- J3. -/
theorem test_ret : let t := cycle 0x00EE { State.reset with stack := [0x202, 0x40A] }
    t.pc = 0x40A ∧ t.stack = [0x202] := by decide

/-- A build with a stack of two entries, a faulting `Fx1E` and R231's account of the stack faults. -/
def strict : Config.Params := { Config.defaults with stackCapacity := some 2, indexAddOverflow := .fault }

/-- The same build with the account of R102 and R104. -/
def literal : Config.Params := { strict with stackFaultInfo := .fetchAddress }

/-- J4, with the FAULT_INFO of R231's row, and of R102's `Fatal(STACK_UNDERFLOW, a)`. -/
theorem test_ret_underflow : status (cycle 0x00EE State.reset) = (2, 0x200, 0) ∧
    status (cycle 0x00EE { State.reset with params := literal }) = (2, 0x200, 0x200) := by decide

/-- J6. -/
theorem test_jp : (cycle 0x1200 State.reset).pc = 0x200 := by decide

/-- J7. -/
theorem test_call : let t := cycle 0x2300 State.reset
    t.stack = [0x202] ∧ t.pc = 0x300 := by decide

/-- J8; and the FAULT_INFO of R104's `Fatal(STACK_OVERFLOW, a)`. -/
theorem test_call_overflow :
    status (cycle 0x2400 { State.reset with params := strict, stack := [0x202, 0x302] }) = (3, 0x200, 2) ∧
    status (cycle 0x2400 { State.reset with params := literal, stack := [0x202, 0x302] }) = (3, 0x200, 0x200) := by
  decide

/-- J10. -/
theorem test_jpV0_past_memory : (cycle 0xBFFF (regs [(0, 0xFF)])).pc = 0x10FE := by decide

/-- J11: the register is V0 whatever nibble 1 holds. -/
theorem test_jpV0_register : (cycle 0xB500 (regs [(5, 0x40)])).pc = 0x500 := by decide

/-! ### Skips -/

/-- K1 and K2. -/
theorem test_seByte : (cycle 0x322A (regs [(2, 0x2A)])).pc = 0x204 ∧ (cycle 0x322B (regs [(2, 0x2A)])).pc = 0x202 := by
  decide

/-- K3 and K4. -/
theorem test_sneByte : (cycle 0x422B (regs [(2, 0x2A)])).pc = 0x204 ∧ (cycle 0x422A (regs [(2, 0x2A)])).pc = 0x202 := by
  decide

/-- K5 and K6. -/
theorem test_seReg : (cycle 0x5120 (regs [(1, 7), (2, 7)])).pc = 0x204 ∧
    (cycle 0x5120 (regs [(1, 7), (2, 8)])).pc = 0x202 := by decide

/-- K7 and K8. -/
theorem test_sneReg : (cycle 0x9120 (regs [(1, 7), (2, 8)])).pc = 0x204 ∧
    (cycle 0x9120 (regs [(1, 7), (2, 7)])).pc = 0x202 := by decide

/-- The state with V[3] = 5 and the keys listed held. -/
def held (l : List Nat) : State :=
  { regs [(3, 5)] with keys := Vector.ofFn fun k : Fin 16 => l.contains k.val }

/-- K10 and K11. -/
theorem test_skp : (cycle 0xE39E (held [5])).pc = 0x204 ∧ (cycle 0xE39E (held [4, 6])).pc = 0x202 := by decide

/-- K12 and K13. -/
theorem test_sknp : (cycle 0xE3A1 (held [])).pc = 0x204 ∧ (cycle 0xE3A1 (held [5])).pc = 0x202 := by decide

/-- K14. -/
theorem test_key_out_of_range : status (cycle 0xE39E (regs [(3, 0x10)])) = (6, 0x200, 0x10) ∧
    status (cycle 0xE3A1 (regs [(3, 0x10)])) = (6, 0x200, 0x10) := by decide

/-- K15. -/
theorem test_skip_past_memory : (cycle 0x3000 { State.reset with pc := 0xFFC }).pc = 0x1000 := by decide

/-! ### Arithmetic and logic: V[x] and VF after `w` with V[0] = p, V[1] = q -/

/-- V[0] and VF after the word, from these V[0] and V[1]. -/
def alu (w : Nat) (p q : Byte) : Byte × Byte := let t := cycle w (regs [(0, p), (1, q)]); (t.getV 0, t.getV 15)

/-- VF after the word, from these VF and V[1]. -/
def aluF (w : Nat) (p q : Byte) : Byte := (cycle w (regs [(15, p), (1, q)])).getV 15

/-- A1. -/
theorem test_ldByte : alu 0x60AB 0 0 = (0xAB, 0) := by decide

/-- A2 and A3. -/
theorem test_addByte : alu 0x7002 0xFF 0 = (0x01, 0) ∧ aluF 0x7FFF 0x01 0 = 0x00 := by decide

/-- A4 to A7. -/
theorem test_ldReg : alu 0x8010 0x11 0x33 = (0x33, 0) := by decide
theorem test_orReg : alu 0x8011 0x0F 0xF0 = (0xFF, 0) := by decide
theorem test_andReg : alu 0x8012 0x3C 0x0F = (0x0C, 0) := by decide
theorem test_xorReg : alu 0x8013 0x3C 0x0F = (0x33, 0) ∧ alu 0x8003 0x5A 0 = (0, 0) := by decide

/-- A9, A11, A12, A13. -/
theorem test_addReg : alu 0x8014 0x05 0x03 = (0x08, 0) ∧ alu 0x8014 0x80 0x80 = (0x00, 1) ∧
    alu 0x8014 0x7F 0x01 = (0x80, 0) ∧ alu 0x8014 0xFF 0xFF = (0xFE, 1) := by decide

/-- A33, A34, A44. -/
theorem test_addReg_flag : aluF 0x8F14 0xFF 0x01 = 1 ∧ aluF 0x8F14 0x10 0x20 = 0 ∧
    ((cycle 0x80F4 (regs [(0, 0xFF), (15, 1)])).getV 0 = 0 ∧
      (cycle 0x80F4 (regs [(0, 0xFF), (15, 1)])).getV 15 = 1) := by decide

/-- A14 to A18. -/
theorem test_subReg : alu 0x8015 0x05 0x03 = (0x02, 1) ∧ alu 0x8015 0x03 0x05 = (0xFE, 0) ∧
    alu 0x8015 0x05 0x05 = (0x00, 1) ∧ alu 0x8015 0x00 0xFF = (0x01, 0) ∧ alu 0x8015 0x80 0x81 = (0xFF, 0) := by
  decide

/-- A35, A36. -/
theorem test_subReg_flag : aluF 0x8F15 0x05 0x03 = 1 ∧ aluF 0x8F15 0x03 0x05 = 0 := by decide

/-- A19, A20, A22 (V[E] is not read). -/
theorem test_shr : alu 0x8016 0x05 0 = (0x02, 1) ∧ alu 0x8016 0x80 0 = (0x40, 0) ∧
    (cycle 0x80E6 (regs [(0, 0x04), (14, 0xFF)])).getV 0 = 0x02 := by decide

/-- A37, A38. -/
theorem test_shr_flag : aluF 0x8F16 0x03 0 = 0 ∧ aluF 0x8F16 0xFF 0 = 0 := by decide

/-- A23 to A26, A43. -/
theorem test_subnReg : alu 0x8017 0x03 0x05 = (0x02, 1) ∧ alu 0x8017 0x05 0x03 = (0xFE, 0) ∧
    alu 0x8017 0x05 0x05 = (0x00, 1) ∧ alu 0x8017 0xFF 0x00 = (0x01, 0) := by decide

/-- A39, A40, A43. -/
theorem test_subnReg_flag : aluF 0x8F17 0x03 0x05 = 1 ∧ aluF 0x8F17 0x05 0x03 = 0 ∧
    (cycle 0x80F7 (regs [(0, 3), (15, 5)])).getV 0 = 2 := by decide

/-- A27 to A29. -/
theorem test_shl : alu 0x801E 0x81 0 = (0x02, 1) ∧ alu 0x801E 0x40 0 = (0x80, 0) ∧ alu 0x801E 0x80 0 = (0x00, 1) := by
  decide

/-- A41, A42. -/
theorem test_shl_flag : aluF 0x8F1E 0x81 0 = 2 ∧ aluF 0x8F1E 0x01 0 = 0 := by decide

/-- A30 to A32, the last with the random byte of the other two. -/
theorem test_rnd : (cycle 0xC30F State.reset).getV 3 = 0x05 ∧ (cycle 0xC300 (regs [(3, 9)])).getV 3 = 0 ∧
    (cycle 0xC3FF State.reset).getV 3 = 0xA5 := by decide

/-! ### Index and memory -/

/-- M1. -/
theorem test_ldI : (cycle 0xA2F0 State.reset).i = 0x2F0 := by decide

/-- M2, M3, M4 under WRAP. -/
theorem test_addI : (cycle 0xF51E { regs [(5, 0x10)] with i := 0x300 }).i = 0x310 ∧
    (cycle 0xF51E { regs [(5, 1)] with i := 0xFFF }).i = 0x1000 ∧
    (cycle 0xF51E { regs [(5, 2)] with i := 0xFFFF }).i = 0x0001 := by decide

/-- M4 under FAULT. -/
theorem test_addI_fault :
    status (cycle 0xF51E { regs [(5, 2)] with i := 0xFFFF, params := strict }) = (8, 0x200, 0x10001) := by decide

/-- M5, M7, M8. -/
theorem test_ldFont : (cycle 0xF029 (regs [(0, 7)])).i = 35 ∧ (cycle 0xF029 (regs [(0, 0x10)])).i = 80 ∧
    (cycle 0xF029 (regs [(0, 0xFF)])).i = 1275 := by decide

/-- M9, its last row, and the byte after the three. -/
theorem test_ldBcd : let t := cycle 0xF033 { regs [(0, 255)] with i := 0x300 }
    [t.byteAt 0x300, t.byteAt 0x301, t.byteAt 0x302, t.byteAt 0x303] = [2, 5, 5, 0] ∧ t.i = 0x300 := by decide

/-- M10; and M17: the font can be overwritten. -/
theorem test_ldBcd_edges : status (cycle 0xF033 { regs [(0, 157)] with i := 0xFFE }) = (4, 0x200, 0x1000) ∧
    (State.reset.byteAt 0 = 0xF0 ∧ (cycle 0xF033 State.reset).byteAt 0 = 0) := by decide

/-- M11, with the byte after. -/
theorem test_storeRegs : let t := cycle 0xF055 { regs [(0, 0xAA), (1, 0xBB)] with i := 0x300 }
    t.byteAt 0x300 = 0xAA ∧ t.byteAt 0x301 = 0 ∧ t.i = 0x300 := by decide

/-- M13. -/
theorem test_storeRegs_fault : status (cycle 0xFF55 { State.reset with i := 0xFF8 }) = (4, 0x200, 0x1000) := by decide

/-- M14. -/
theorem test_loadRegs :
    let t := cycle 0xF265 { regs [(3, 9)] with i := 0x300, mem := [(0x300, 1), (0x301, 5), (0x302, 7)] }
    [t.getV 0, t.getV 1, t.getV 2, t.getV 3] = [1, 5, 7, 9] ∧ t.i = 0x300 := by decide

/-- M15 and M16. -/
theorem test_loadRegs_edges : (cycle 0xF065 { State.reset with i := 0xFFF, mem := [(0xFFF, 0x5A)] }).getV 0 = 0x5A ∧
    status (cycle 0xF165 { State.reset with i := 0xFFF }) = (4, 0x200, 0x1000) := by decide

/-! ### Display -/

/-- A state whose `I` points at the one sprite byte. -/
def sprite (b x y : Byte) : State := { regs [(0, x), (1, y)] with i := 0x300, mem := [(0x300, b)] }

/-- D3: the spill into the next row. -/
theorem test_drw_spill : lit (cycle 0xD011 (sprite 0xF0 62 0)) [0, 61, 62, 63, 64, 65, 66] =
    [false, false, true, true, true, true, false] := by decide

/-- D2: the second draw erases, and VF is not written; D4, D5 and D8: the last cell, and the two faults. -/
theorem test_drw : lit (cycle 0xD011 { sprite 0x80 0 0 with disp := Display.toggle Display.blank 0 }) [0] = [false] ∧
    (cycle 0xD011 { sprite 0x80 0 0 with disp := Display.toggle Display.blank 0 }).getV 15 = 0 ∧
    lit (cycle 0xD011 (sprite 0x80 63 31)) [2047] = [true] ∧
    status (cycle 0xD011 (sprite 0x01 63 31)) = (5, 0x200, 2054) ∧
    status (cycle 0xD002 { State.reset with i := 0xFFF }) = (4, 0x200, 0x1000) := by decide

/-- D6 and D7: no set bit, no row. -/
theorem test_drw_nothing : (cycle 0xD011 (sprite 0x00 0xFF 0xFF)).disp = Display.blank ∧
    (cycle 0xD010 { State.reset with i := 0xFFFF }).disp = Display.blank ∧
    (cycle 0xD010 { State.reset with i := 0xFFFF }).faultCode = 0 := by decide

/-- D10. -/
theorem test_readPixel_refused : readPixel 2048 State.reset = .error (.noSuchPixel 2048) := rfl

/-! ### Timers and key wait -/

/-- T1 and T2. -/
theorem test_ldVxDt : let t := cycle 0xF307 { State.reset with dt := 9 }
    let u := cycle 0xF307 { State.reset with dt := 9, cadence := 9 }
    (t.getV 3, t.dt, t.cadence) = (9, 9, 1) ∧ (u.getV 3, u.dt, u.cadence) = (9, 8, 0) := by decide

/-- T3. -/
theorem test_ldDtVx : (cycle 0xF015 { regs [(0, 5)] with cadence := 9 }).dt = 4 := by decide

/-- T4. -/
theorem test_ldStVx : (cycle 0xF018 (regs [(0, 5)])).st = 5 := by decide

/-- T5. -/
theorem test_ldVxK : let t := cycle 0xF50A (held [3, 9])
    t.getV 5 = 3 ∧ t.pc = 0x202 := by decide

/-- T6. -/
theorem test_ldVxK_waits : let t := cycle 0xF50A (regs [(5, 0x77)])
    t.getV 5 = 0x77 ∧ t.pc = 0x200 ∧ t.cadence = 1 := by decide

/-! ### Reset -/

/-- The glyphs of 7 and A at 5d, from R27's table, and the bytes around the font's end. -/
theorem test_reset_font : ([35, 36, 37, 38, 39].map State.reset.byteAt = [0xF0, 0x10, 0x20, 0x40, 0x40]) ∧
    ([50, 51, 52, 53, 54].map State.reset.byteAt = [0xF0, 0x90, 0xF0, 0x90, 0x90]) ∧
    ([79, 80, 0xFFF].map State.reset.byteAt = [0x80, 0, 0]) := by decide

/-- R2 and R3 of the reset vectors. -/
theorem test_reset_too_long : status (resetWith (List.replicate 3585 0) State.reset) = (7, 0, 3585) := by
  simp only [resetWith, List.length_replicate]
  decide

theorem test_reset_clears_fault : let t := resetWith [0x12, 0x02] { State.reset with faultCode := 5, faultPc := 0x204, dt := 4 }
    t.faultCode = 0 ∧ t.faultPc = 0 ∧ t.dt = 0 ∧ t.byteAt 0x200 = 0x12 ∧ t.byteAt 0x201 = 0x02 ∧ t.byteAt 0x202 = 0 := by
  decide

/-- The outcome is a next state. -/
def isNext : Result → Bool
  | .next _ => true
  | _ => false

theorem next_after : ∀ {r : Result}, isNext r = true → r = .next (after r)
  | .next _, _ => rfl
  | .fault _, h => nomatch h
  | .refused _, h => nomatch h

/-! ### Witnesses: for each statement with hypotheses, states and operands that meet them, clause by clause -/

theorem witness_DecodeOfEncode : (Instr.drw 15 0 15).wellFormed = true ∧ (Instr.jp 0xFFF).wellFormed = true ∧
    (Instr.unrecognised 0x0FFF).wellFormed = true := by decide

theorem witness_DecodeFollowsOpcodeMap :
    ((⟨0xF065, 0xF0FF, "LD_Vx___I"⟩ : OpcodeRow) ∈ opcodeMap ∧ (0xFF65 : Word) &&& 0xF0FF = 0xF065) ∧
    (∀ r ∈ opcodeMap, (0x8008 : Word) &&& r.mask ≠ r.bits) := by
  refine ⟨by decide, ?_⟩
  rw [← List.all_iff_forall_prop]
  decide

/-- A state in which the word of the vector E6 is fetched. -/
theorem witness_UnrecognisedWordIsNoOp : let s := State.reset.withFetchWord 16 0x5121
    unrecognisedWord 0x5121 = true ∧ s.running = true ∧ s.pc.toNat + 1 ≤ 0xFFF ∧
    s.byteAt s.pc.toNat ++ s.byteAt (s.pc.toNat + 1) = 0x5121#16 := by decide

theorem witness_NopChangesNothing : let s := { State.reset with pc := 0xFFE }
    s.running = true ∧ s.pc.toNat + 1 ≤ 0xFFF ∧ s.byteAt s.pc.toNat = 0 ∧ s.byteAt (s.pc.toNat + 1) = 0 := by decide

theorem witness_RetPopsOrUnderflows :
    ({ State.reset with stack := [0x202, 0x1000] } : State).stack = [0x202] ++ [0x1000] ∧
    (State.reset.stack = [] ∧ State.reset.params.stackFaultInfo = .tableRow) ∧
    (let s := { State.reset with params := literal }; s.stack = [] ∧ s.params.stackFaultInfo = .fetchAddress) := by
  decide

theorem witness_CallPushesOrOverflows : State.reset.params.stackCapacity ≠ some State.reset.stack.length ∧
    (let s := { State.reset with params := strict, stack := [0x202] };
      s.params.stackCapacity ≠ some s.stack.length) ∧
    (let s := { State.reset with params := strict, stack := [0x202, 0x302] };
      s.params.stackCapacity = some s.stack.length ∧ s.params.stackFaultInfo = .tableRow) ∧
    (let s := { State.reset with params := literal, stack := [0x202, 0x302] };
      s.params.stackCapacity = some s.stack.length ∧ s.params.stackFaultInfo = .fetchAddress) := by decide

theorem witness_SkipsOnRegister : (1 : RowCount) ≠ 0 ∧ (15 : RowCount) ≠ 0 := by decide

theorem witness_SkipsOnKey : ((regs [(3, 15)]).getV 3).toNat = (15 : RegNum).val ∧
    15 < ((regs [(3, 16)]).getV 3).toNat := by decide

/-- For the statements on the flag-writing instructions: both sides of `x ≠ F`, and a register that is neither. -/
theorem witness_flagInstructions : (14 : RegNum) ≠ 15 ∧ (15 : RegNum) = 15 ∧ (1 : RegNum) ≠ 14 ∧ (1 : RegNum) ≠ 15 := by
  decide

theorem witness_AddIWrapsOrFaults :
    (let s := { regs [(5, 2)] with i := 0xFFFD }; s.i.toNat + (s.getV 5).toNat ≤ 0xFFFF) ∧
    (let s := { regs [(5, 2)] with i := 0xFFFE }; s.params.indexAddOverflow = .wrap) ∧
    (let s := { regs [(5, 2)] with i := 0xFFFE, params := strict };
      0xFFFF < s.i.toNat + (s.getV 5).toNat ∧ s.params.indexAddOverflow = .fault) := by decide

theorem witness_BcdStoresDigits :
    (let s := { State.reset with i := 0xFFD }; s.memWf = true ∧ s.i.toNat + 2 ≤ 0xFFF) ∧
    (let s := { State.reset with i := 0xFFE }; 0xFFF < s.i.toNat + 2) := by decide

theorem witness_StoreRegsStoresRegisters :
    (let s := { State.reset with i := 0xFF0 }; s.memWf = true ∧ s.i.toNat + (15 : RegNum).val ≤ 0xFFF) ∧
    (let s := { State.reset with i := 0xFF1 }; 0xFFF < s.i.toNat + (15 : RegNum).val) := by decide

theorem witness_LoadRegsLoadsRegisters :
    (let s := { State.reset with i := 0xFFF }; s.i.toNat + (0 : RegNum).val ≤ 0xFFF) ∧
    (let s := { State.reset with i := 0xFFF }; 0xFFF < s.i.toNat + (1 : RegNum).val) := by decide

/-- The set bits of the sprite byte 0x80: the leftmost column alone. -/
theorem bits_0x80 : ∀ col < 8, (0x80#8).getLsbD (7 - col) = true → col = 0 := by decide

/-- The last cell, 2047, of a one-row sprite at (63, 31). -/
theorem witness_DrwTogglesSpriteCells : let s := sprite 0x80 63 31
    (∀ row, row < (1 : RowCount).val → s.i.toNat + row ≤ 0xFFF) ∧
    (∀ row col, row < (1 : RowCount).val → col < 8 → (s.byteAt (s.i.toNat + row)).getLsbD (7 - col) = true →
      ((s.getV 0).toNat + col) + 64 * ((s.getV 1).toNat + row) < 2048) := by
  refine ⟨by decide, fun row col hr hc hb => ?_⟩
  obtain rfl : row = 0 := by have : row < 1 := hr; omega
  rw [show (sprite 0x80 63 31).byteAt ((sprite 0x80 63 31).i.toNat + 0) = 0x80#8 by decide] at hb
  obtain rfl := bits_0x80 col hc hb
  decide

/-- `I = 0xFFF`, whose byte is clear: row 1 is the first out of range. -/
theorem witness_DrwFaultsOnRowAddress : let s := { State.reset with i := 0xFFF };
    1 < (2 : RowCount).val ∧ 0xFFF < s.i.toNat + 1 ∧ (∀ row, row < 1 → s.i.toNat + row ≤ 0xFFF) ∧
    (∀ row col, row < 1 → col < 8 → (s.byteAt (s.i.toNat + row)).getLsbD (7 - col) = true →
      ((s.getV 0).toNat + col) + 64 * ((s.getV 1).toNat + row) < 2048) := by
  refine ⟨by decide, by decide, by decide, fun row col hr hc _ => ?_⟩
  show (0 + col) + 64 * (0 + row) < 2048
  omega

/-- The sprite byte 0xC0 at (63, 31): column 0 is cell 2047, column 1 is out of range. -/
theorem witness_DrwFaultsOnPixelIndex : let s := sprite 0xC0 63 31;
    0 < (1 : RowCount).val ∧ 1 < 8 ∧ (∀ row, row ≤ 0 → s.i.toNat + row ≤ 0xFFF) ∧
    (s.byteAt (s.i.toNat + 0)).getLsbD (7 - 1) = true ∧
    2048 ≤ ((s.getV 0).toNat + 1) + 64 * ((s.getV 1).toNat + 0) ∧
    (∀ row col, (row < 0 ∧ col < 8 ∨ row = 0 ∧ col < 1) → (s.byteAt (s.i.toNat + row)).getLsbD (7 - col) = true →
      ((s.getV 0).toNat + col) + 64 * ((s.getV 1).toNat + row) < 2048) := by
  refine ⟨by decide, by decide, fun row hr => ?_, by decide, by decide, fun row col h _ => ?_⟩
  · obtain rfl : row = 0 := by omega
    decide
  · obtain ⟨rfl, rfl⟩ : row = 0 ∧ col = 0 := by omega
    decide

theorem witness_DrwTwiceRestoresDisplay :
    exec (.drw 0 1 1) (sprite 0x80 0 0) = .next (after (exec (.drw 0 1 1) (sprite 0x80 0 0))) ∧
    (after (exec (.drw 0 1 1) (sprite 0x80 0 0))).faultCode = (sprite 0x80 0 0).faultCode ∧
    (sprite 0x80 0 0).faultCode = 0 :=
  ⟨next_after (by decide), by decide, by decide⟩

/-- A state whose tenth cycle runs the word. -/
def tenth (w : Nat) : State := { regs [(3, 5)] with cadence := 9 }.withFetchWord 16 w

theorem witness_TimerMoves : (tenth 0xF307).running = true ∧ (tenth 0xF307).pc.toNat + 1 ≤ 0xFFF ∧
    (tenth 0xF307).cadence.val = 9 ∧
    decode ((tenth 0xF307).byteAt 0x200) ((tenth 0xF307).byteAt 0x201) = .ldVxDt 3 ∧
    decode ((tenth 0xF315).byteAt 0x200) ((tenth 0xF315).byteAt 0x201) = .ldDtVx 3 ∧
    decode ((tenth 0xF318).byteAt 0x200) ((tenth 0xF318).byteAt 0x201) = .ldStVx 3 := by decide

theorem witness_KeyWaitTakesLowestHeldKey :
    ((held [15]).keys[(15 : RegNum).val] = true ∧ ∀ j : RegNum, j < 15 → (held [15]).keys[j.val] = false) ∧
    ((held [0, 15]).keys[(0 : RegNum).val] = true) ∧
    (let s := (held []).withFetchWord 16 0xF50A;
      (∀ k : RegNum, s.keys[k.val] = false) ∧ s.running = true ∧ s.pc.toNat + 1 ≤ 0xFFF ∧
      decode (s.byteAt s.pc.toNat) (s.byteAt (s.pc.toNat + 1)) = .ldVxK 5) := by decide

theorem witness_StepRunsDecodedInstruction : let s := { State.reset with pc := 0xFFE }
    s.running = true ∧ s.pc.toNat + 1 ≤ 0xFFF ∧ ∃ t, exec (decode (s.byteAt s.pc.toNat) (s.byteAt (s.pc.toNat + 1)))
      { s with pc := s.pc + 2, rand := 0, freeIx := s.freeIx + 1 } = .next t := ⟨by decide, by decide, _, rfl⟩

theorem witness_FetchReadsTwoBytesOrFaults : (let s := { State.reset with pc := 0xFFE }; s.pc.toNat + 1 ≤ 0xFFF) ∧
    (let s := { State.reset with pc := 0xFFF }; s.running = true ∧ 0xFFF < s.pc.toNat + 1) := by decide

theorem witness_HaltedCoreStaysHalted : let s := { State.reset with faultCode := 8 }
    s.faultCode ≠ 0 ∧ ∃ t, perform (.reset []) s = .next t ∧ t.faultCode = 0 := ⟨by decide, _, rfl, by decide⟩

/-- One state for each code an execute step can record. -/
theorem witness_FaultsOnlyForListedCauses :
    (after (exec .ret State.reset)).faultCode = 2 ∧
    (after (exec (.call 0) { State.reset with params := strict, stack := [0x202, 0x302] })).faultCode = 3 ∧
    (after (exec (.loadRegs 1) { State.reset with i := 0xFFF })).faultCode = 4 ∧
    (after (exec (.drw 0 1 1) (sprite 0x01 63 31))).faultCode = 5 ∧
    (after (exec (.skp 3) (regs [(3, 16)]))).faultCode = 6 ∧
    (after (exec (.addI 5) { regs [(5, 1)] with i := 0xFFFF, params := strict })).faultCode = 8 := by decide

theorem witness_TimerTickCountsTen : ({ State.reset with cadence := 8 } : State).cadence.val < 9 ∧
    ({ State.reset with cadence := 9 } : State).cadence.val = 9 := by decide

/-- `V[0]` and `V[1]` stored at 0x300 and fetched from there. -/
theorem witness_StoredBytesAreFetched : let s := { regs [(0, 0x12), (1, 0x34)] with i := 0x300, pc := 0x300 }
    s.memWf = true ∧ s.i.toNat + (1 : RegNum).val ≤ 0xFFF ∧ (0 : RegNum) < 1 ∧
    ∃ t, exec (.storeRegs 1) s = .next t ∧ t.pc.toNat = s.i.toNat + (0 : RegNum).val :=
  ⟨by decide, by decide, by decide, _, rfl, by decide⟩

theorem witness_ResetLoadsImage : (List.replicate 3584 (0 : Byte)).length ≤ 3584 ∧
    ∃ t, perform (.reset (List.replicate 3584 0)) State.reset = .next t :=
  ⟨le_of_eq List.length_replicate, _, rfl⟩

theorem witness_ResetRejectsLongImage : (List.replicate 3584 (0 : Byte)).length ≤ 3584 ∧
    3584 < (List.replicate 3585 (0 : Byte)).length := by
  simp only [List.length_replicate]
  decide

theorem witness_ResetStateIsEmptyImageReset : let s := { State.reset with pc := 0x300, dt := 7 }
    s.params = Config.defaults ∧ s.rand = 0 ∧ s.freeIx = 0 := ⟨rfl, rfl, rfl⟩

theorem witness_OnlyTheHostWritesKeys : (∃ t, exec .nop State.reset = .next t) ∧
    ∃ t, stepWith 0 State.reset = .next t := ⟨⟨_, rfl⟩, _, rfl⟩

theorem witness_PortsReadTheState : (2047 : Nat) < 2048 ∧ (2048 : Nat) ≤ 2048 := by decide

theorem witness_InvariantAtReset : State.reset.Inv := ⟨by decide, by decide, by decide⟩

/-- The bounds of the invariant: `pc = 0x10FE`, a return address of 0x1000, a full stack, a listed byte. -/
theorem witness_StepKeepsInvariant :
    let s := { State.reset with pc := 0x10FE, stack := [0x1000, 0x202], params := strict, mem := [(0xFFF, 1)] }
    s.Inv ∧ ∃ t, step s = .next t := by
  refine ⟨⟨by decide, by decide, by decide⟩, ?_⟩
  unfold step stepWith
  rw [if_pos (by decide)]
  unfold runCycle
  rw [fetch_error (show 0xFFF < (0x10FE#16).toNat + 1 by decide)]
  exact ⟨_, rfl⟩

theorem witness_HostActionsKeepInvariant : State.reset.Inv ∧ (∃ t, perform (.reset [0x12]) State.reset = .next t) ∧
    (∃ t, perform (.step 0) State.reset = .next t) ∧
    ∃ t, perform (.setKeys (Vector.replicate 16 true)) State.reset = .next t :=
  ⟨witness_InvariantAtReset, ⟨_, rfl⟩, ⟨_, rfl⟩, _, rfl⟩

/-- The program P7's last jump, to 0x10FE. -/
theorem witness_PcStaysAtMost10FE :
    let s := ({ regs [(0, 0xFF)] with stack := [0x1000] } : State).withFetchWord 16 0xBFFF
    s.running = true ∧ (∀ w ∈ s.stack, w.toNat ≤ 0x1000) ∧
    stepWith 0 s = .next (after (stepWith 0 s)) ∧ (after (stepWith 0 s)).faultCode = 0 := by
  refine ⟨by decide, fun w hw => ?_, next_after (by decide), by decide⟩
  obtain rfl : w = 0x1000 := List.mem_singleton.mp hw
  decide

theorem witness_OnlyListedInstructionsWriteV : State.reset.faultCode = 0 ∧
    ∃ t, exec (.ldByte 3 7) State.reset = .next t ∧ t.faultCode = 0 ∧ t.getV 3 ≠ State.reset.getV 3 :=
  ⟨by decide, _, rfl, by decide, by decide⟩

theorem witness_OnlyListedInstructionsWriteSpecialState : State.reset.faultCode = 0 ∧
    (after (exec (.ldI 1) State.reset)).i ≠ State.reset.i ∧
    (after (exec (.call 1) State.reset)).stack ≠ State.reset.stack ∧
    (after (exec (.drw 0 1 1) (sprite 0x80 0 0))).disp ≠ (sprite 0x80 0 0).disp ∧
    (after (exec (.ldDtVx 3) (regs [(3, 5)]))).dt ≠ (regs [(3, 5)]).dt ∧
    (after (exec (.ldStVx 3) (regs [(3, 5)]))).st ≠ (regs [(3, 5)]).st ∧
    (after (exec (.ldBcd 3) { regs [(3, 5)] with i := 0x300 })).mem ≠ [] := by decide

theorem witness_OnlyListedInstructionsWritePc : State.reset.faultCode = 0 ∧
    ∃ t, exec (.jp 0x300) State.reset = .next t ∧ t.faultCode = 0 ∧ t.pc ≠ State.reset.pc :=
  ⟨by decide, _, rfl, by decide, by decide⟩

theorem witness_SoundTimerAndCadenceAreNeverRead : (after (exec (.ldVxDt 3) State.reset)).faultCode = 0 := by decide

theorem witness_OnlyRndReadsTheRandomByte :
    (∀ x nn, decode (State.reset.byteAt State.reset.pc.toNat) (State.reset.byteAt (State.reset.pc.toNat + 1)) ≠
      .rnd x nn) ∧
    (after (stepWith 0 State.reset)).faultCode = 0 := by
  refine ⟨?_, by decide⟩
  rw [show decode (State.reset.byteAt State.reset.pc.toNat) (State.reset.byteAt (State.reset.pc.toNat + 1)) = .nop by
    decide]
  nofun

theorem witness_ParametersNeverChange : ∃ t, perform (.reset []) { State.reset with params := strict } = .next t :=
  ⟨_, rfl⟩

theorem witness_CanonicalMemoryIsUnique : let base := Config.resetByte Config.defaultFont
    Memory.wf base [(0, 0x0F), (0xFFF, 1)] = true ∧
    ∀ a, a < 0x1000 → Memory.read base [(0, 0x0F), (0xFFF, 1)] a = Memory.read base [(0, 0x0F), (0xFFF, 1)] a :=
  ⟨by decide, fun _ _ => rfl⟩

end Sys2Proof.Tests
end

/-!
The decoder as the opcode map, and the fetch (spec 30_encoding.md R72, R79, R80).
-/

namespace Sys2Proof

/-! ### The bits the decoder chooses by -/

/-- The bits by which the decoder tells the instructions of a group apart, by the group's first nibble (R80). -/
def selectorMask (a : BitVec 4) : Word :=
  match a.toNat with
  | 0x0 => 0xFFFF
  | 0x5 | 0x8 | 0x9 => 0xF00F
  | 0xE | 0xF => 0xF0FF
  | _ => 0xF000

theorem nibbleA_and_selectorMask (w : Word) (a : BitVec 4) : nibbleA (w &&& selectorMask a) = nibbleA w := by
  have hmask : nibbleA (selectorMask a) = BitVec.allOnes 4 := by revert a; decide
  rw [nibbleA, BitVec.extractLsb'_and, ← nibbleA, ← nibbleA, hmask, BitVec.and_allOnes]

theorem nibbleD_and_F00F (w : Word) : nibbleD (w &&& 0xF00F) = nibbleD w :=
  BitVec.extractLsb'_and.trans BitVec.and_allOnes

theorem fieldNN_and_F0FF (w : Word) : fieldNN (w &&& 0xF0FF) = fieldNN w :=
  BitVec.extractLsb'_and.trans BitVec.and_allOnes

/-- Only the selector bits of a word choose its instruction: the others are operands. -/
theorem mnemonic_decodeWord_congr {w v : Word} (ha : nibbleA w = nibbleA v)
    (h : w &&& selectorMask (nibbleA v) = v &&& selectorMask (nibbleA v)) :
    (decodeWord w).mnemonic = (decodeWord v).mnemonic := by
  unfold decodeWord
  rw [ha]
  split
  case h_1 _ hv =>
    simp only [selectorMask, hv] at h
    have hw : w = v := by rwa [← BitVec.and_allOnes (x := w), ← BitVec.and_allOnes (x := v)]
    rw [hw]
  case h_6 _ hv | h_9 _ hv | h_10 _ hv =>
    simp only [selectorMask, hv] at h
    have hd : nibbleD w = nibbleD v := by rw [← nibbleD_and_F00F, h, nibbleD_and_F00F]
    simp only [decode5, decode8, decode9, hd]
    split <;> rfl
  case h_15 _ hv =>
    simp only [selectorMask, hv] at h
    have hnn : fieldNN w = fieldNN v := by rw [← fieldNN_and_F0FF, h, fieldNN_and_F0FF]
    simp only [decodeE, hnn]
    split <;> rfl
  case h_16 =>
    have hv : (nibbleA v).toNat = 15 := by simp only [imp_false] at *; omega
    simp only [selectorMask, hv] at h
    have hnn : fieldNN w = fieldNN v := by rw [← fieldNN_and_F0FF, h, fieldNN_and_F0FF]
    simp only [decodeF, hnn]
    split <;> rfl
  all_goals rfl

/-! ### The rows of the opcode map -/

/-- A row fixes the selector bits of its group. -/
theorem mask_eq_selectorMask : ∀ r ∈ opcodeMap, r.mask = selectorMask (nibbleA r.bits) := by decide

/-- The word of a row's fixed bits, every operand zero, is one the row selects and decodes to its instruction. -/
theorem mnemonic_decodeWord_bits :
    ∀ r ∈ opcodeMap, r.bits &&& r.mask = r.bits ∧ (decodeWord r.bits).mnemonic = r.mnemonic := by decide

/-- A row that selects a word gives the mnemonic of what it decodes to (R79). -/
theorem mnemonic_decodeWord_of_selects {w : Word} {r : OpcodeRow} (hr : r ∈ opcodeMap)
    (h : w &&& r.mask = r.bits) : (decodeWord w).mnemonic = r.mnemonic := by
  have hmask := mask_eq_selectorMask r hr
  obtain ⟨hbits, hname⟩ := mnemonic_decodeWord_bits r hr
  have ha : nibbleA w = nibbleA r.bits := by
    rw [← nibbleA_and_selectorMask w (nibbleA r.bits), ← hmask, h]
  rw [← hname]
  exact mnemonic_decodeWord_congr ha (by rw [← hmask, h, hbits])

/-- Two rows differ in a bit that both fix (R78: the patterns are pairwise disjoint). -/
theorem opcodeMap_pairwise_disjoint : opcodeMap.Pairwise fun r q => r.bits &&& q.mask ≠ q.bits &&& r.mask := by
  decide

theorem length_filter_selects_le_one (w : Word) : (opcodeMap.filter fun r => r.selects w).length ≤ 1 := by
  have hpair : (opcodeMap.filter fun r => r.selects w).Pairwise fun _ _ => False := by
    refine List.pairwise_filter.mpr (opcodeMap_pairwise_disjoint.imp fun {r q} hne hr hq => hne ?_)
    have hr : w &&& r.mask = r.bits := beq_iff_eq.mp hr
    have hq : w &&& q.mask = q.bits := beq_iff_eq.mp hq
    rw [← hr, ← hq, BitVec.and_assoc, BitVec.and_assoc, BitVec.and_comm r.mask]
  match h : opcodeMap.filter fun r => r.selects w with
  | [] | [_] => simp [h]
  | r :: q :: l =>
    rw [h] at hpair
    exact (List.rel_of_pairwise_cons hpair List.mem_cons_self).elim

/-! ### Encoding what was decoded -/

theorem encode_decode0 (w : Word) : encode (decode0 w) = w := by
  unfold decode0
  split_ifs with h0 h1 h2
  · exact h0.symm
  · exact h1.symm
  · exact h2.symm
  · rfl

/-! A word whose selecting fields are known numbers, as `encode` writes it. -/

theorem word_of_nnn {w : Word} {a : Nat} (ha : (nibbleA w).toNat = a) : BitVec.ofNat 4 a ++ fieldNNN w = w := by
  rw [← ha, BitVec.ofNat_toNat, BitVec.setWidth_eq, word_eq_nnn]

theorem word_of_xnn {w : Word} {a : Nat} (ha : (nibbleA w).toNat = a) :
    BitVec.ofNat 4 a ++ regBits (fieldX w) ++ fieldNN w = w := by
  rw [← ha, BitVec.ofNat_toNat, BitVec.setWidth_eq, word_eq_xnn]

theorem word_of_x {w : Word} {a nn : Nat} (ha : (nibbleA w).toNat = a) (hnn : (fieldNN w).toNat = nn) :
    BitVec.ofNat 4 a ++ regBits (fieldX w) ++ BitVec.ofNat 8 nn = w := by
  rw [← hnn, BitVec.ofNat_toNat, BitVec.setWidth_eq, word_of_xnn ha]

theorem word_of_xyd {w : Word} {a : Nat} (ha : (nibbleA w).toNat = a) :
    BitVec.ofNat 4 a ++ regBits (fieldX w) ++ regBits (fieldY w) ++ nibbleD w = w := by
  rw [← ha, BitVec.ofNat_toNat, BitVec.setWidth_eq, word_eq_xyd]

theorem word_of_xy {w : Word} {a d : Nat} (ha : (nibbleA w).toNat = a) (hd : (nibbleD w).toNat = d) :
    BitVec.ofNat 4 a ++ regBits (fieldX w) ++ regBits (fieldY w) ++ BitVec.ofNat 4 d = w := by
  rw [← hd, BitVec.ofNat_toNat, BitVec.setWidth_eq, word_of_xyd ha]

theorem encode_decode5 {w : Word} (ha : (nibbleA w).toNat = 0x5) : encode (decode5 w) = w := by
  unfold decode5
  split_ifs with hd
  · exact word_of_xy ha (congrArg BitVec.toNat hd)
  · rfl

theorem encode_decode8 {w : Word} (ha : (nibbleA w).toNat = 0x8) : encode (decode8 w) = w := by
  unfold decode8
  split
  case h_10 => rfl
  all_goals exact word_of_xy ha ‹_›

theorem encode_decode9 {w : Word} (ha : (nibbleA w).toNat = 0x9) : encode (decode9 w) = w := by
  unfold decode9
  split_ifs with hd
  · exact word_of_xy ha (congrArg BitVec.toNat hd)
  · rfl

theorem encode_decodeE {w : Word} (ha : (nibbleA w).toNat = 0xE) : encode (decodeE w) = w := by
  unfold decodeE
  split
  case h_3 => rfl
  all_goals exact word_of_x ha ‹_›

theorem encode_decodeF {w : Word} (ha : (nibbleA w).toNat = 0xF) : encode (decodeF w) = w := by
  unfold decodeF
  split
  case h_10 => rfl
  all_goals exact word_of_x ha ‹_›

/-- No bit of a word is lost by decoding it (R73). -/
theorem encode_decodeWord (w : Word) : encode (decodeWord w) = w := by
  unfold decodeWord
  split
  case h_1 => exact encode_decode0 w
  case h_2 _ ha | h_3 _ ha | h_11 _ ha | h_12 _ ha => exact word_of_nnn ha
  case h_4 _ ha | h_5 _ ha | h_7 _ ha | h_8 _ ha | h_13 _ ha => exact word_of_xnn ha
  case h_6 _ ha => exact encode_decode5 ha
  case h_9 _ ha => exact encode_decode8 ha
  case h_10 _ ha => exact encode_decode9 ha
  case h_14 _ ha => exact word_of_xyd ha
  case h_15 _ ha => exact encode_decodeE ha
  case h_16 => exact encode_decodeF (by simp only [imp_false] at *; omega)

/-! ### The row of an instruction -/

open Laws in
/-- The rows of any instruction's mnemonic select its word. -/
theorem rowMatch : ∀ i : Instr, RowMatch.Statement i
  | .nop => RowMatch.nop
  | .cls => RowMatch.cls
  | .ret => RowMatch.ret
  | .jp _ => RowMatch.jp _
  | .call _ => RowMatch.call _
  | .seByte _ _ => RowMatch.seByte _ _
  | .sneByte _ _ => RowMatch.sneByte _ _
  | .seReg _ _ => RowMatch.seReg _ _
  | .ldByte _ _ => RowMatch.ldByte _ _
  | .addByte _ _ => RowMatch.addByte _ _
  | .ldReg _ _ => RowMatch.ldReg _ _
  | .orReg _ _ => RowMatch.orReg _ _
  | .andReg _ _ => RowMatch.andReg _ _
  | .xorReg _ _ => RowMatch.xorReg _ _
  | .addReg _ _ => RowMatch.addReg _ _
  | .subReg _ _ => RowMatch.subReg _ _
  | .shr _ _ => RowMatch.shr _ _
  | .subnReg _ _ => RowMatch.subnReg _ _
  | .shl _ _ => RowMatch.shl _ _
  | .sneReg _ _ => RowMatch.sneReg _ _
  | .ldI _ => RowMatch.ldI _
  | .jpV0 _ => RowMatch.jpV0 _
  | .rnd _ _ => RowMatch.rnd _ _
  | .drw _ _ _ => RowMatch.drw _ _ _
  | .skp _ => RowMatch.skp _
  | .sknp _ => RowMatch.sknp _
  | .ldVxDt _ => RowMatch.ldVxDt _
  | .ldVxK _ => RowMatch.ldVxK _
  | .ldDtVx _ => RowMatch.ldDtVx _
  | .ldStVx _ => RowMatch.ldStVx _
  | .addI _ => RowMatch.addI _
  | .ldFont _ => RowMatch.ldFont _
  | .ldBcd _ => RowMatch.ldBcd _
  | .storeRegs _ => RowMatch.storeRegs _
  | .loadRegs _ => RowMatch.loadRegs _
  | .unrecognised _ => RowMatch.unrecognised _

/-- Every instruction but the catch-all is well formed and has a row of its own in the opcode map. -/
theorem exists_row_of_instr (i : Instr) :
    (∃ w, i = .unrecognised w) ∨ (i.wellFormed = true ∧ ∃ r ∈ opcodeMap, r.mnemonic = i.mnemonic) := by
  have hrow (h : opcodeMap.any (fun r => r.mnemonic == i.mnemonic) = true) :
      ∃ r ∈ opcodeMap, r.mnemonic = i.mnemonic := by simpa using h
  cases i with
  | unrecognised w => exact .inl ⟨w, rfl⟩
  | _ => exact .inr ⟨rfl, hrow rfl⟩

/-- A word that is not the catch-all's is selected by a row. -/
theorem decodeWord_unrecognised_or_selected (w : Word) :
    decodeWord w = .unrecognised w ∨ ∃ r ∈ opcodeMap, w &&& r.mask = r.bits := by
  have henc := encode_decodeWord w
  obtain ⟨u, hu⟩ | ⟨hwf, r, hr, hname⟩ := exists_row_of_instr (decodeWord w)
  · rw [hu] at henc ⊢
    exact .inl (congrArg Instr.unrecognised henc)
  · have hall := List.all_eq_true.mp (rowMatch _ hwf) r (List.mem_filter.mpr ⟨hr, beq_iff_eq.mpr hname⟩)
    rw [henc] at hall
    exact .inr ⟨r, hr, beq_iff_eq.mp hall⟩

/-- Settles O4: a row fixes the bits the decoder chooses by, two rows differ in such a bit, and a word that is not the
catch-all's is the encoding of what it decodes to, which its own row selects. -/
theorem decodeFollowsOpcodeMap : Obligations.DecodeFollowsOpcodeMap := by
  intro w
  refine ⟨fun r hr => mnemonic_decodeWord_of_selects hr, length_filter_selects_le_one w, fun hnone => ?_⟩
  refine (decodeWord_unrecognised_or_selected w).resolve_right ?_
  rintro ⟨r, hr, hsel⟩
  exact hnone r hr hsel

end Sys2Proof

namespace Sys2Proof.Machine

/-! ### The fetch -/

/-- A fault taken in a state whose keys are those of `s` shows as R232 says. -/
theorem haltsWith_takeFault (f : Fatal) (a : Word) {s t : State} (hkeys : t.keys = s.keys) :
    HaltsWith (.next (takeFault f a t)) s (faultNumber f.code) a f.info :=
  ⟨_, rfl, takeFault_faultCode f a t, takeFault_faultPc f a t, takeFault_faultInfo a t, hkeys⟩

theorem runCycle_fetch_error {s : State} (h : 0xFFF < s.pc.toNat + 1) :
    runCycle s = .next (takeFault ⟨.fetchOutOfRange, s.pc.toNat⟩ s.pc s) := by
  rw [runCycle, fetch_error h]

/-- Settles O36: a cycle whose fetch is out of range takes the fault at once. -/
theorem fetchReadsTwoBytesOrFaults : Obligations.FetchReadsTwoBytesOrFaults := by
  intro rand s
  refine ⟨fetch_ok, fun hrun hpc => ?_⟩
  rw [stepWith_running rand hrun, runCycle_fetch_error (s := beginCycle rand s) hpc]
  exact haltsWith_takeFault _ _ rfl

end Sys2Proof.Machine

/-!
System and control-transfer instructions that cannot fault (spec 41_flow.md R100, R101, R103, R105).
-/

namespace Sys2Proof

open Spec

/-! ### Words with an address field -/

theorem nibbleA_append (a : BitVec 4) (nnn : Addr12) : nibbleA (a ++ nnn) = a := by
  apply BitVec.eq_of_toNat_eq
  rw [nibbleA_toNat, toNat_word12]
  omega

theorem fieldNNN_append (a : BitVec 4) (nnn : Addr12) : fieldNNN (a ++ nnn) = nnn := by
  apply BitVec.eq_of_toNat_eq
  rw [fieldNNN_toNat, toNat_word12]
  omega

/-- An encoding line `op | nnn` whose `op` is a first nibble alone is that nibble before the address field. -/
theorem wordNNN_eq_append (a : BitVec 4) (nnn : Addr12) : wordNNN (a ++ 0#12) nnn = a ++ nnn := by
  have hnnn : nnn.setWidth 16 = 0#4 ++ nnn := BitVec.setWidth_eq_append (by decide)
  rw [wordNNN, hnnn, BitVec.or_append, BitVec.or_zero, BitVec.zero_or]

theorem decodeWord_jp (nnn : Addr12) : decodeWord (wordNNN 0x1000 nnn) = .jp nnn := by
  rw [show (0x1000 : Word) = 0x1#4 ++ 0#12 from rfl, wordNNN_eq_append, decodeWord, nibbleA_append, fieldNNN_append]
  rfl

theorem decodeWord_jpV0 (nnn : Addr12) : decodeWord (wordNNN 0xB000 nnn) = .jpV0 nnn := by
  rw [show (0xB000 : Word) = 0xB#4 ++ 0#12 from rfl, wordNNN_eq_append, decodeWord, nibbleA_append, fieldNNN_append]
  rfl

end Sys2Proof

namespace Sys2Proof.Machine

/-! ### A cycle without a fault -/

/-- A running core whose fetch is in range executes what the two bytes decode to, after the fetch advance (R77). -/
theorem stepWith_fetched {s : State} (rand : Byte) (hrun : s.running = true) (hpc : s.pc.toNat + 1 ≤ 0xFFF) :
    stepWith rand s =
      closeCycle (exec (decode (s.byteAt s.pc.toNat) (s.byteAt (s.pc.toNat + 1))) (advance (beginCycle rand s))) := by
  rw [stepWith_running rand hrun, runCycle, fetch_ok (s := beginCycle rand s) hpc]
  rfl

/-- An execute step that raises no fault is followed by the tick (R77). -/
theorem closeCycle_next_running {t : State} (h : t.running = true) : closeCycle (.next t) = .next (timerTick t) := by
  rw [closeCycle, endCycle, if_pos h]

/-- Fetching an instruction whose execute step answers its state advances `pc` by 2 and ticks, and does no more. -/
theorem stepWith_of_noOp {i : Instr} {s : State} (rand : Byte) (hexec : ∀ t, exec i t = .next t)
    (hrun : s.running = true) (hpc : s.pc.toNat + 1 ≤ 0xFFF)
    (hdecode : decode (s.byteAt s.pc.toNat) (s.byteAt (s.pc.toNat + 1)) = i) :
    stepWith rand s = .next (timerTick { s with pc := s.pc + 2, rand := rand, freeIx := s.freeIx + 1 }) := by
  rw [stepWith_fetched rand hrun hpc, hdecode, hexec]
  exact closeCycle_next_running hrun

/-- Settles O6: two zero bytes decode to NOP, whose execute step answers its state. -/
theorem nopChangesNothing : Obligations.NopChangesNothing := by
  have hexec (s : State) : exec .nop s = .next s := rfl
  refine ⟨rfl, fun s => ⟨hexec s, fun rand hrun hpc hhigh hlow => ?_⟩⟩
  exact stepWith_of_noOp rand hexec hrun hpc (by rw [hhigh, hlow]; rfl)

/-! ### The display -/

theorem readPixel_of_lt {k : Nat} (h : k < 2048) (s : State) : readPixel k s = .ok (Display.cell s.disp ⟨k, h⟩) :=
  dif_pos h

/-- Settles O7: the display CLS sets is blank, and a blank display's cells are off. -/
theorem clsTurnsAllCellsOff : Obligations.ClsTurnsAllCellsOff := by
  refine ⟨rfl, fun s => ⟨s.setDisp Display.blank, rfl, fun k hk => ?_, rfl⟩⟩
  rw [readPixel_of_lt hk, State.setDisp_disp, Display.cell_blank]

/-! ### Jumps -/

theorem addr_toNat (nnn : Addr12) : (addr nnn).toNat = nnn.toNat := BitVec.toNat_setWidth_of_le (by decide)

/-- The target of `Bnnn` fits 16 bits, so the 16-bit sum is the sum (R105). -/
theorem addr_add_byte_toNat (nnn : Addr12) (b : Byte) : (addr nnn + b.setWidth 16).toNat = nnn.toNat + b.toNat := by
  have hb : (b.setWidth 16).toNat = b.toNat := BitVec.toNat_setWidth_of_le (by decide)
  rw [BitVec.toNat_add, addr_toNat, hb]
  omega

/-- Settles O9: JP's target is its zero-extended address. -/
theorem jpSetsPc : Obligations.JpSetsPc := fun nnn s =>
  ⟨decodeWord_jp nnn, s.setPc (addr nnn), rfl, addr_toNat nnn, rfl⟩

/-- Settles O11: the target of JP V0 is the sum, with no wrap. -/
theorem jpV0AddsV0 : Obligations.JpV0AddsV0 := fun nnn s =>
  ⟨decodeWord_jpV0 nnn, s.setPc _, rfl, addr_add_byte_toNat nnn (s.getV 0), rfl⟩

end Sys2Proof.Machine

/-!
Conditional skips (spec 42_skip.md).
-/

namespace Sys2Proof

open Spec

/-! ### Words with register fields, a byte field or a last nibble

The lines `op | x<<8 | nn`, `op | x<<8 | y<<4` and `op | x<<8` as the concatenation of their fields, for any `op` that
fills the nibbles its operands leave free. -/

/-- A register number in the place of `x`. -/
theorem shiftLeft_8_eq_append (x : RegNum) : BitVec.ofNat 16 x.val <<< 8 = 0#4 ++ regBits x ++ 0#8 := by
  revert x; decide

/-- A register number in the place of `y`. -/
theorem shiftLeft_4_eq_append (y : RegNum) : BitVec.ofNat 16 y.val <<< 4 = 0#4 ++ 0#4 ++ regBits y ++ 0#4 := by
  revert y; decide

/-- A count in the place of `n`. -/
theorem ofNat_eq_append (n : RowCount) : BitVec.ofNat 16 n.val = 0#4 ++ 0#4 ++ 0#4 ++ regBits n := by
  revert n; decide

theorem wordX_eq_append (a : BitVec 4) (nn : Byte) (x : RegNum) :
    wordX (a ++ 0#4 ++ nn) x = a ++ regBits x ++ nn := by
  rw [wordX, shiftLeft_8_eq_append]
  rw [BitVec.or_append, BitVec.or_append]
  simp only [BitVec.or_zero, BitVec.zero_or]

theorem wordXNN_eq_append (a : BitVec 4) (x : RegNum) (nn : Byte) :
    wordXNN (a ++ 0#4 ++ 0#8) x nn = a ++ regBits x ++ nn := by
  have hnn : nn.setWidth 16 = 0#4 ++ 0#4 ++ nn := BitVec.setWidth_eq_append (by decide)
  rw [wordXNN, ← wordX, wordX_eq_append, hnn]
  rw [BitVec.or_append, BitVec.or_append]
  simp only [BitVec.or_zero, BitVec.zero_or]

theorem nibbles_or_nibbles (a b c d a' b' c' d' : BitVec 4) :
    (a ++ b ++ c ++ d : Word) ||| (a' ++ b' ++ c' ++ d') = (a ||| a') ++ (b ||| b') ++ (c ||| c') ++ (d ||| d') := by
  rw [BitVec.or_append, BitVec.or_append, BitVec.or_append]

theorem wordXY_eq_append (a d : BitVec 4) (x y : RegNum) :
    wordXY (a ++ 0#4 ++ 0#4 ++ d) x y = a ++ regBits x ++ regBits y ++ d := by
  have hx : 0#4 ++ regBits x ++ 0#8 = 0#4 ++ regBits x ++ 0#4 ++ 0#4 := by revert x; decide
  rw [wordXY, shiftLeft_8_eq_append, hx, shiftLeft_4_eq_append, nibbles_or_nibbles, nibbles_or_nibbles]
  simp only [BitVec.or_zero, BitVec.zero_or]

/-- A count or-ed into a word whose last nibble is free is its last nibble. -/
theorem wordXY_or_count (a : BitVec 4) (x y : RegNum) (n : RowCount) :
    wordXY (a ++ 0#4 ++ 0#4 ++ 0#4) x y ||| BitVec.ofNat 16 n.val = a ++ regBits x ++ regBits y ++ regBits n := by
  rw [wordXY_eq_append, ofNat_eq_append, nibbles_or_nibbles]
  simp only [BitVec.or_zero, BitVec.zero_or]

/-! The fields of such a word. -/

section
variable (a d : BitVec 4) (x y : RegNum) (nn : Byte)

theorem nibbleA_xnn : nibbleA (a ++ regBits x ++ nn) = a := by
  apply BitVec.eq_of_toNat_eq
  rw [nibbleA_toNat, toNat_word8]
  omega

theorem fieldX_xnn : fieldX (a ++ regBits x ++ nn) = x := by
  apply Fin.ext
  rw [fieldX_val, toNat_word8, regBits_toNat]
  omega

theorem fieldNN_xnn : fieldNN (a ++ regBits x ++ nn) = nn := by
  apply BitVec.eq_of_toNat_eq
  rw [fieldNN_toNat, toNat_word8]
  omega

theorem nibbleA_xyd : nibbleA (a ++ regBits x ++ regBits y ++ d) = a := by
  apply BitVec.eq_of_toNat_eq
  rw [nibbleA_toNat, toNat_word4, regBits_toNat, regBits_toNat]
  omega

theorem fieldX_xyd : fieldX (a ++ regBits x ++ regBits y ++ d) = x := by
  apply Fin.ext
  rw [fieldX_val, toNat_word4, regBits_toNat, regBits_toNat]
  omega

theorem fieldY_xyd : fieldY (a ++ regBits x ++ regBits y ++ d) = y := by
  apply Fin.ext
  rw [fieldY_val, toNat_word4, regBits_toNat, regBits_toNat]
  omega

theorem nibbleD_xyd : nibbleD (a ++ regBits x ++ regBits y ++ d) = d := by
  apply BitVec.eq_of_toNat_eq
  rw [nibbleD_toNat, toNat_word4]
  omega

end

/-! ### Decoding the skips -/

theorem decodeWord_seByte (x : RegNum) (nn : Byte) : decodeWord (wordXNN 0x3000 x nn) = .seByte x nn := by
  rw [show (0x3000 : Word) = 0x3#4 ++ 0#4 ++ 0#8 from rfl, wordXNN_eq_append, decodeWord, nibbleA_xnn, fieldX_xnn,
    fieldNN_xnn]
  rfl

theorem decodeWord_sneByte (x : RegNum) (nn : Byte) : decodeWord (wordXNN 0x4000 x nn) = .sneByte x nn := by
  rw [show (0x4000 : Word) = 0x4#4 ++ 0#4 ++ 0#8 from rfl, wordXNN_eq_append, decodeWord, nibbleA_xnn, fieldX_xnn,
    fieldNN_xnn]
  rfl

/-- A word of the group `5` is SE only when its last nibble is zero (R80). -/
theorem decodeWord_5xyd (x y : RegNum) (d : BitVec 4) :
    decodeWord (0x5#4 ++ regBits x ++ regBits y ++ d) =
      if d = 0 then .seReg x y else .unrecognised (0x5#4 ++ regBits x ++ regBits y ++ d) := by
  rw [decodeWord, nibbleA_xyd]
  change decode5 _ = _
  rw [decode5, nibbleD_xyd, fieldX_xyd, fieldY_xyd]

/-- A word of the group `9` is SNE only when its last nibble is zero (R80). -/
theorem decodeWord_9xyd (x y : RegNum) (d : BitVec 4) :
    decodeWord (0x9#4 ++ regBits x ++ regBits y ++ d) =
      if d = 0 then .sneReg x y else .unrecognised (0x9#4 ++ regBits x ++ regBits y ++ d) := by
  rw [decodeWord, nibbleA_xyd]
  change decode9 _ = _
  rw [decode9, nibbleD_xyd, fieldX_xyd, fieldY_xyd]

theorem decodeWord_seReg (x y : RegNum) : decodeWord (wordXY 0x5000 x y) = .seReg x y := by
  rw [show (0x5000 : Word) = 0x5#4 ++ 0#4 ++ 0#4 ++ 0#4 from rfl, wordXY_eq_append, decodeWord_5xyd]
  exact if_pos rfl

theorem decodeWord_sneReg (x y : RegNum) : decodeWord (wordXY 0x9000 x y) = .sneReg x y := by
  rw [show (0x9000 : Word) = 0x9#4 ++ 0#4 ++ 0#4 ++ 0#4 from rfl, wordXY_eq_append, decodeWord_9xyd]
  exact if_pos rfl

theorem regBits_ne_zero {n : Fin 16} (h : n ≠ 0) : regBits n ≠ 0 := fun h0 => h (congrArg BitVec.toFin h0)

theorem decodeWord_5xyn_unrecognised (x y : RegNum) {n : RowCount} (hn : n ≠ 0) :
    decodeWord (wordXY 0x5000 x y ||| BitVec.ofNat 16 n.val) =
      .unrecognised (wordXY 0x5000 x y ||| BitVec.ofNat 16 n.val) := by
  rw [show (0x5000 : Word) = 0x5#4 ++ 0#4 ++ 0#4 ++ 0#4 from rfl, wordXY_or_count, decodeWord_5xyd,
    if_neg (regBits_ne_zero hn)]

theorem decodeWord_9xyn_unrecognised (x y : RegNum) {n : RowCount} (hn : n ≠ 0) :
    decodeWord (wordXY 0x9000 x y ||| BitVec.ofNat 16 n.val) =
      .unrecognised (wordXY 0x9000 x y ||| BitVec.ofNat 16 n.val) := by
  rw [show (0x9000 : Word) = 0x9#4 ++ 0#4 ++ 0#4 ++ 0#4 from rfl, wordXY_or_count, decodeWord_9xyd,
    if_neg (regBits_ne_zero hn)]

theorem decodeWord_skp (x : RegNum) : decodeWord (wordX 0xE09E x) = .skp x := by
  rw [show (0xE09E : Word) = 0xE#4 ++ 0#4 ++ 0x9E#8 from rfl, wordX_eq_append, decodeWord, nibbleA_xnn]
  change decodeE _ = _
  rw [decodeE, fieldNN_xnn, fieldX_xnn]
  rfl

theorem decodeWord_sknp (x : RegNum) : decodeWord (wordX 0xE0A1 x) = .sknp x := by
  rw [show (0xE0A1 : Word) = 0xE#4 ++ 0#4 ++ 0xA1#8 from rfl, wordX_eq_append, decodeWord, nibbleA_xnn]
  change decodeE _ = _
  rw [decodeE, fieldNN_xnn, fieldX_xnn]
  rfl

end Sys2Proof

namespace Sys2Proof.Machine

/-! ### What a skip does -/

/-- A skip on the negation of a condition. -/
theorem skipIf_not (c : Bool) (s : State) : skipIf (!c) s = s.setPc (if c then s.pc else s.pc + 2) := by
  cases c <;> rfl

theorem exec_seByte (x : RegNum) (nn : Byte) (s : State) :
    exec (.seByte x nn) s = .next { s with pc := if s.getV x = nn then s.pc + 2 else s.pc } := by
  change Host.Outcome.next (skipIf (s.getV x == nn) s) = _
  simp only [skipIf_eq, beq_iff_eq, State.setPc]

theorem exec_sneByte (x : RegNum) (nn : Byte) (s : State) :
    exec (.sneByte x nn) s = .next { s with pc := if s.getV x = nn then s.pc else s.pc + 2 } := by
  change Host.Outcome.next (skipIf (!(s.getV x == nn)) s) = _
  simp only [skipIf_not, beq_iff_eq, State.setPc]

/-- A skip on two registers is the skip on a byte for the second register's byte. -/
theorem exec_seReg (x y : RegNum) (s : State) : exec (.seReg x y) s = exec (.seByte x (s.getV y)) s := rfl

theorem exec_sneReg (x y : RegNum) (s : State) : exec (.sneReg x y) s = exec (.sneByte x (s.getV y)) s := rfl

/-- Settles O12: the immediate byte is the word's low byte, and a skip writes `pc` alone. -/
theorem skipsOnByte : Obligations.SkipsOnByte := fun x nn s =>
  ⟨decodeWord_seByte x nn, decodeWord_sneByte x nn, exec_seByte x nn s, exec_sneByte x nn s⟩

/-- Settles O13: only a zero last nibble selects the skip, and the skip compares with the second register's byte. -/
theorem skipsOnRegister : Obligations.SkipsOnRegister := fun x y s =>
  ⟨decodeWord_seReg x y, decodeWord_sneReg x y,
    fun _ hn => ⟨decodeWord_5xyn_unrecognised x y hn, decodeWord_9xyn_unrecognised x y hn⟩,
    (exec_seReg x y s).trans (exec_seByte x _ s), (exec_sneReg x y s).trans (exec_sneByte x _ s)⟩

/-! ### Skips on a key -/

section
variable {x : RegNum} {s : State}

theorem exec_skp_of_key {k : RegNum} (hk : (s.getV x).toNat = k.val) :
    exec (.skp x) s = .next { s with pc := if s.keys[k.val] then s.pc + 2 else s.pc } := by
  change execSkp x s = _
  rw [execSkp, hk, keyHeld_ok]
  exact congrArg Host.Outcome.next (skipIf_eq (s.key k) s)

theorem exec_sknp_of_key {k : RegNum} (hk : (s.getV x).toNat = k.val) :
    exec (.sknp x) s = .next { s with pc := if s.keys[k.val] then s.pc else s.pc + 2 } := by
  change execSknp x s = _
  rw [execSknp, hk, keyHeld_ok]
  exact congrArg Host.Outcome.next (skipIf_not (s.key k) s)

theorem exec_skp_of_no_key (h : 15 < (s.getV x).toNat) :
    exec (.skp x) s = .next (takeFault ⟨.keyOutOfRange, (s.getV x).toNat⟩ (s.pc - 2) s) := by
  change execSkp x s = _
  rw [execSkp, keyHeld_error h]
  rfl

theorem exec_sknp_of_no_key (h : 15 < (s.getV x).toNat) :
    exec (.sknp x) s = .next (takeFault ⟨.keyOutOfRange, (s.getV x).toNat⟩ (s.pc - 2) s) := by
  change execSknp x s = _
  rw [execSknp, keyHeld_error h]
  rfl

end

/-- Settles O14: a key number up to 15 gives the key's flag, one above it the fault. -/
theorem skipsOnKey : Obligations.SkipsOnKey := by
  intro x s
  refine ⟨decodeWord_skp x, decodeWord_sknp x, fun k hk => ⟨exec_skp_of_key hk, exec_sknp_of_key hk⟩, fun h => ?_⟩
  rw [exec_skp_of_no_key h, exec_sknp_of_no_key h]
  exact ⟨haltsWith_takeFault _ _ rfl, haltsWith_takeFault _ _ rfl⟩

end Sys2Proof.Machine

/-!
Register loads, arithmetic, logic and the random byte (spec 43_alu.md R141 to R148, R150, R152).
-/

namespace Sys2Proof

open Spec

/-! ### Decoding by the first nibble, and in the group `8` by the last -/

/-- A first nibble that alone selects an operation on `x` and `nn` selects it for the line `op | x<<8 | nn`. -/
theorem decodeWord_wordXNN {a : BitVec 4} {op : RegNum → Byte → Instr}
    (h : ∀ w, nibbleA w = a → decodeWord w = op (fieldX w) (fieldNN w)) (x : RegNum) (nn : Byte) :
    decodeWord (wordXNN (a ++ 0#4 ++ 0#8) x nn) = op x nn := by
  rw [wordXNN_eq_append, h _ (nibbleA_xnn a x nn), fieldX_xnn, fieldNN_xnn]

/-- A last nibble that in the group `8` selects an operation on `x` and `y` selects it for the line
`op | x<<8 | y<<4`. -/
theorem decodeWord_wordXY_8 {d : BitVec 4} {op : RegNum → RegNum → Instr}
    (h : ∀ w, nibbleD w = d → decode8 w = op (fieldX w) (fieldY w)) (x y : RegNum) :
    decodeWord (wordXY (0x8#4 ++ 0#4 ++ 0#4 ++ d) x y) = op x y := by
  rw [wordXY_eq_append, decodeWord, nibbleA_xyd]
  change decode8 _ = _
  rw [h _ (nibbleD_xyd 0x8#4 d x y), fieldX_xyd, fieldY_xyd]

theorem decodeWord_ldByte (x : RegNum) (nn : Byte) : decodeWord (wordXNN 0x6000 x nn) = .ldByte x nn :=
  decodeWord_wordXNN (a := 0x6) (fun _ ha => by rw [decodeWord, ha]; rfl) x nn

theorem decodeWord_addByte (x : RegNum) (nn : Byte) : decodeWord (wordXNN 0x7000 x nn) = .addByte x nn :=
  decodeWord_wordXNN (a := 0x7) (fun _ ha => by rw [decodeWord, ha]; rfl) x nn

theorem decodeWord_rnd (x : RegNum) (nn : Byte) : decodeWord (wordXNN 0xC000 x nn) = .rnd x nn :=
  decodeWord_wordXNN (a := 0xC) (fun _ ha => by rw [decodeWord, ha]; rfl) x nn

theorem decodeWord_ldReg (x y : RegNum) : decodeWord (wordXY 0x8000 x y) = .ldReg x y :=
  decodeWord_wordXY_8 (d := 0x0) (fun _ hd => by rw [decode8, hd]; rfl) x y

theorem decodeWord_orReg (x y : RegNum) : decodeWord (wordXY 0x8001 x y) = .orReg x y :=
  decodeWord_wordXY_8 (d := 0x1) (fun _ hd => by rw [decode8, hd]; rfl) x y

theorem decodeWord_andReg (x y : RegNum) : decodeWord (wordXY 0x8002 x y) = .andReg x y :=
  decodeWord_wordXY_8 (d := 0x2) (fun _ hd => by rw [decode8, hd]; rfl) x y

theorem decodeWord_xorReg (x y : RegNum) : decodeWord (wordXY 0x8003 x y) = .xorReg x y :=
  decodeWord_wordXY_8 (d := 0x3) (fun _ hd => by rw [decode8, hd]; rfl) x y

theorem decodeWord_addReg (x y : RegNum) : decodeWord (wordXY 0x8004 x y) = .addReg x y :=
  decodeWord_wordXY_8 (d := 0x4) (fun _ hd => by rw [decode8, hd]; rfl) x y

theorem decodeWord_subReg (x y : RegNum) : decodeWord (wordXY 0x8005 x y) = .subReg x y :=
  decodeWord_wordXY_8 (d := 0x5) (fun _ hd => by rw [decode8, hd]; rfl) x y

theorem decodeWord_subnReg (x y : RegNum) : decodeWord (wordXY 0x8007 x y) = .subnReg x y :=
  decodeWord_wordXY_8 (d := 0x7) (fun _ hd => by rw [decode8, hd]; rfl) x y

end Sys2Proof

namespace Sys2Proof.Machine

/-! ### Results and flags as numbers -/

theorem sum8_toNat (p q : Byte) : (sum8 p q).toNat = (p.toNat + q.toNat) % 256 := BitVec.toNat_ofNat _ _

/-- The difference modulo 256 is that of the exact integer difference (R140). -/
theorem diff8_toInt (p q : Byte) : ((diff8 p q).toNat : Int) = (p.toNat - q.toNat : Int) % 256 := by
  rw [diff8, BitVec.toNat_ofNat]
  omega

theorem flagByte_toNat (b : Bool) : (flagByte b).toNat = if b then 1 else 0 := by cases b <;> rfl

theorem carry_toNat (p q : Byte) : (carry p q).toNat = if 256 ≤ p.toNat + q.toNat then 1 else 0 := by
  simp only [carry, flagByte_toNat, decide_eq_true_eq]

theorem noBorrow_toNat (p q : Byte) : (noBorrow p q).toNat = if q.toNat ≤ p.toNat then 1 else 0 := by
  simp only [noBorrow, flagByte_toNat, decide_eq_true_eq]

/-! ### What the two forms of write leave unchanged -/

/-- A write to `V[x]` changes that register alone. -/
theorem State.setV_frame (s : State) (x : RegNum) (b : Byte) :
    (∀ j, j ≠ x → (s.setV x b).getV j = s.getV j) ∧ s.setV x b = { s with v := (s.setV x b).v } :=
  ⟨fun _ => State.getV_setV_ne s b, State.setV_eq s x b⟩

/-- A result in `V[x]` survives the flag written after it, unless it stood in VF. -/
theorem State.getV_setV_setV_vf (s : State) {x : RegNum} (b f : Byte) (hx : x ≠ vf) :
    ((s.setV x b).setV vf f).getV x = b := by
  rw [State.getV_setV_ne _ f hx, State.getV_setV_same]

/-- A write to `V[x]` and then to VF changes those two registers alone. -/
theorem State.setV_setV_vf_frame (s : State) (x : RegNum) (b f : Byte) :
    (∀ j, j ≠ x → j ≠ vf → ((s.setV x b).setV vf f).getV j = s.getV j) ∧
      (s.setV x b).setV vf f = { s with v := ((s.setV x b).setV vf f).v } := by
  refine ⟨fun j hx hf => ?_, rfl⟩
  rw [State.getV_setV_ne _ f hf, State.getV_setV_ne s b hx]

/-! ### A result, then its flag -/

/-- Settles O18: the carry is written last, so it stands in VF for `x = F` too. -/
theorem addRegWritesSumAndCarry : Obligations.AddRegWritesSumAndCarry := by
  refine fun x y s => ⟨decodeWord_addReg x y, _, rfl, fun hx => ?_, ?_, State.setV_setV_vf_frame s x _ _⟩
  · rw [State.getV_setV_setV_vf s _ _ hx, sum8_toNat]
  · rw [← vf, State.getV_setV_same, carry_toNat]

/-- The difference `p − q` written to `V[x]` and then NOT borrow to VF, which holds the flag for `x = F` too. -/
theorem setV_diff8_setV_noBorrow {s t : State} (x : RegNum) (p q : Byte)
    (ht : t = (s.setV x (diff8 p q)).setV vf (noBorrow p q)) :
    (x ≠ 15 → ((t.getV x).toNat : Int) = (p.toNat - q.toNat : Int) % 256) ∧
      (t.getV 15).toNat = (if q.toNat ≤ p.toNat then 1 else 0) ∧
      (∀ j, j ≠ x → j ≠ 15 → t.getV j = s.getV j) ∧ t = { s with v := t.v } := by
  subst ht
  refine ⟨fun hx => ?_, ?_, State.setV_setV_vf_frame s x _ _⟩
  · rw [State.getV_setV_setV_vf s _ _ hx, diff8_toInt]
  · rw [← vf, State.getV_setV_same, noBorrow_toNat]

/-- Settles O19: the difference is that of the old `V[x]` and `V[y]`. -/
theorem subRegWritesDifferenceAndNotBorrow : Obligations.SubRegWritesDifferenceAndNotBorrow := fun x y s =>
  ⟨decodeWord_subReg x y, _, rfl, setV_diff8_setV_noBorrow x (s.getV x) (s.getV y) rfl⟩

/-- Settles O20: the difference SUB writes, with the operands exchanged. -/
theorem subnRegWritesDifferenceAndNotBorrow : Obligations.SubnRegWritesDifferenceAndNotBorrow := fun x y s =>
  ⟨decodeWord_subnReg x y, _, rfl, setV_diff8_setV_noBorrow x (s.getV y) (s.getV x) rfl⟩

/-! ### A result without a flag -/

/-- Settles O15: each load is one write to `V[x]`. -/
theorem loadsWriteVx : Obligations.LoadsWriteVx := fun x y nn s =>
  ⟨decodeWord_ldByte x nn, decodeWord_ldReg x y,
    ⟨s.setV x nn, rfl, s.getV_setV_same x nn, s.setV_frame x nn⟩,
    ⟨s.setV x (s.getV y), rfl, s.getV_setV_same x _, s.setV_frame x _⟩⟩

/-- Settles O16: the 8-bit sum is the sum modulo 256, and the one write is to `V[x]`. -/
theorem addByteWrapsWithoutFlag : Obligations.AddByteWrapsWithoutFlag := by
  refine fun x nn s => ⟨decodeWord_addByte x nn, s.setV x (sum8 (s.getV x) nn), rfl, ?_, s.setV_frame x _⟩
  rw [State.getV_setV_same, sum8_toNat]

/-- Settles O17: a bit of a bitwise result is the operation on the two bits, and the one write is to `V[x]`. -/
theorem logicWritesBitwiseResult : Obligations.LogicWritesBitwiseResult := by
  refine fun x y s => ⟨decodeWord_orReg x y, decodeWord_andReg x y, decodeWord_xorReg x y,
    ⟨s.setV x (s.getV x ||| s.getV y), rfl, fun b => ?_, s.setV_frame x _⟩,
    ⟨s.setV x (s.getV x &&& s.getV y), rfl, fun b => ?_, s.setV_frame x _⟩,
    ⟨s.setV x (s.getV x ^^^ s.getV y), rfl, fun b => ?_, s.setV_frame x _⟩⟩
  · rw [State.getV_setV_same, BitVec.getLsbD_or]
  · rw [State.getV_setV_same, BitVec.getLsbD_and]
  · rw [State.getV_setV_same, BitVec.getLsbD_xor]

/-- Settles O23: the random byte is the one latched in the state, whatever it is. -/
theorem rndMasksRandomByte : Obligations.RndMasksRandomByte := by
  refine fun x nn s => ⟨decodeWord_rnd x nn, s.setV x (s.rand &&& nn), rfl, fun b => ?_, s.setV_frame x _⟩
  rw [State.getV_setV_same, BitVec.getLsbD_and]

end Sys2Proof.Machine

/-!
Index loads and the instructions that move bytes between registers and memory (spec 44_index_memory.md R170, R172 to
R175).
-/

namespace Sys2Proof

open Spec

/-! ### Decoding in the group `F` by the low byte -/

/-- A low byte that in the group `F` selects an operation on `x` selects it for the line `op | x<<8`. -/
theorem decodeWord_wordX_F {nn : Byte} {op : RegNum → Instr}
    (h : ∀ w, fieldNN w = nn → decodeF w = op (fieldX w)) (x : RegNum) :
    decodeWord (wordX (0xF#4 ++ 0#4 ++ nn) x) = op x := by
  rw [wordX_eq_append, decodeWord, nibbleA_xnn]
  change decodeF _ = _
  rw [h _ (fieldNN_xnn 0xF#4 x nn), fieldX_xnn]

theorem decodeWord_ldFont (x : RegNum) : decodeWord (wordX 0xF029 x) = .ldFont x :=
  decodeWord_wordX_F (nn := 0x29) (fun _ hnn => by rw [decodeF, hnn]; rfl) x

theorem decodeWord_ldBcd (x : RegNum) : decodeWord (wordX 0xF033 x) = .ldBcd x :=
  decodeWord_wordX_F (nn := 0x33) (fun _ hnn => by rw [decodeF, hnn]; rfl) x

theorem decodeWord_storeRegs (x : RegNum) : decodeWord (wordX 0xF055 x) = .storeRegs x :=
  decodeWord_wordX_F (nn := 0x55) (fun _ hnn => by rw [decodeF, hnn]; rfl) x

theorem decodeWord_loadRegs (x : RegNum) : decodeWord (wordX 0xF065 x) = .loadRegs x :=
  decodeWord_wordX_F (nn := 0x65) (fun _ hnn => by rw [decodeF, hnn]; rfl) x

theorem decodeWord_ldI (nnn : Addr12) : decodeWord (wordNNN 0xA000 nnn) = .ldI nnn := by
  rw [show (0xA000 : Word) = 0xA#4 ++ 0#12 from rfl, wordNNN_eq_append, decodeWord, nibbleA_append, fieldNNN_append]
  rfl

end Sys2Proof

namespace Sys2Proof.Machine

/-! ### Loading the index -/

/-- The glyph address of every byte fits 16 bits, so the product is not reduced (R172). -/
theorem glyphAddr_toNat (b : Byte) : (glyphAddr b).toNat = b.toNat * 5 := by
  rw [glyphAddr, BitVec.toNat_ofNat, Config.glyphBytes]
  omega

/-- Settles O24: each load is one write to `I`. -/
theorem indexLoads : Obligations.IndexLoads := fun nnn x s =>
  ⟨decodeWord_ldI nnn, decodeWord_ldFont x,
    ⟨s.setI (addr nnn), rfl, addr_toNat nnn, rfl⟩,
    ⟨s.setI (glyphAddr (s.getV x)), rfl, glyphAddr_toNat (s.getV x), rfl⟩⟩

/-! ### Storing bytes from an address on -/

/-- An execute step that ends at an access out of range halts with the address of that access. -/
theorem haltsWith_memOutOfRange (s : State) (a : Nat) :
    HaltsWith (complete s (.error ⟨.memOutOfRange, a⟩)) s 4 (s.pc - 2) a :=
  haltsWith_takeFault ⟨.memOutOfRange, a⟩ (s.pc - 2) rfl

section
variable {s : State} {a : Nat} {bs : List Byte}

/-- What stands at an address after stores that fit: the byte stored there, or the byte that was there. -/
theorem State.byteAt_writeAll (hwf : s.memWf = true) (hfit : a + bs.length ≤ 0x1000) (c : Nat) :
    { s with mem := Memory.writeAll s.resetByte s.mem a bs }.byteAt c =
      if a ≤ c then bs.getD (c - a) (s.byteAt c) else s.byteAt c :=
  Memory.read_writeAll bs c hwf hfit

/-- An execute step that stores bytes that fit writes them in order and changes nothing else. -/
theorem complete_storeBytes_ok (hwf : s.memWf = true) (hfit : a + bs.length ≤ 0x1000) :
    ∃ t, complete s (storeBytes a bs s) = .next t ∧ (∀ k (hk : k < bs.length), t.byteAt (a + k) = bs[k]) ∧
      (∀ c, c < a ∨ a + bs.length ≤ c → t.byteAt c = s.byteAt c) ∧ t = { s with mem := t.mem } := by
  refine ⟨_, by rw [storeBytes_ok hfit, complete_ok], fun k hk => ?_, fun c hc => ?_, rfl⟩
  · rw [State.byteAt_writeAll hwf hfit, if_pos (by omega), Nat.add_sub_cancel_left, List.getD_eq_getElem _ _ hk]
  · rw [State.byteAt_writeAll hwf hfit]
    split
    · exact List.getD_eq_default _ _ (by omega)
    · rfl

/-- An execute step that stores bytes past the end of the memory halts with the first address that does not exist. -/
theorem haltsWith_storeBytes (hpast : 0x1000 < a + bs.length) (hne : bs ≠ []) :
    HaltsWith (complete s (storeBytes a bs s)) s 4 (s.pc - 2) (max a 0x1000) := by
  rw [storeBytes_error hpast hne]
  exact haltsWith_memOutOfRange s _

end

@[simp] theorem bcdDigits_length (b : Byte) : (bcdDigits b).length = 3 := by simp [bcdDigits]

/-- Each digit fits the byte it is stored in. -/
theorem bcdDigits_toNat (b : Byte) :
    (bcdDigits b)[0].toNat = b.toNat / 100 ∧ (bcdDigits b)[1].toNat = b.toNat / 10 % 10 ∧
      (bcdDigits b)[2].toNat = b.toNat % 10 :=
  ⟨Nat.mod_eq_of_lt (by omega), Nat.mod_eq_of_lt (by omega), Nat.mod_eq_of_lt (by omega)⟩

theorem exec_ldBcd (x : RegNum) (s : State) :
    exec (.ldBcd x) s = complete s (storeBytes s.i.toNat (bcdDigits (s.getV x)) s) := rfl

theorem exec_storeRegs (x : RegNum) (s : State) :
    exec (.storeRegs x) s = complete s (storeBytes s.i.toNat (s.regsUpTo x) s) := rfl

/-- Settles O26: the execute step stores the three digits from `I` on. -/
theorem bcdStoresDigits : Obligations.BcdStoresDigits := by
  intro x s
  have hlen := bcdDigits_length (s.getV x)
  rw [exec_ldBcd]
  refine ⟨decodeWord_ldBcd x, fun hwf hfit => ?_, fun hpast => haltsWith_storeBytes (by omega) nofun⟩
  obtain ⟨t, hexec, hbyte, hframe, hmem⟩ :=
    complete_storeBytes_ok (a := s.i.toNat) (bs := bcdDigits (s.getV x)) hwf (by omega)
  obtain ⟨hhundreds, htens, hones⟩ := bcdDigits_toNat (s.getV x)
  refine ⟨t, hexec, ?_, ?_, ?_, fun a ha => hframe a (by omega), hmem⟩
  · exact (congrArg BitVec.toNat (hbyte 0 (by omega))).trans hhundreds
  · exact (congrArg BitVec.toNat (hbyte 1 (by omega))).trans htens
  · exact (congrArg BitVec.toNat (hbyte 2 (by omega))).trans hones

/-- Settles O27: the execute step stores the registers `V[0]` to `V[x]` from `I` on. -/
theorem storeRegsStoresRegisters : Obligations.StoreRegsStoresRegisters := by
  intro x s
  have hlen := s.regsUpTo_length x
  rw [exec_storeRegs]
  have hne : s.regsUpTo x ≠ [] := List.ne_nil_of_length_eq_add_one hlen
  refine ⟨decodeWord_storeRegs x, fun hwf hfit => ?_, fun hpast => haltsWith_storeBytes (by omega) hne⟩
  obtain ⟨t, hexec, hbyte, hframe, hmem⟩ :=
    complete_storeBytes_ok (a := s.i.toNat) (bs := s.regsUpTo x) hwf (by omega)
  refine ⟨t, hexec, fun k hk => ?_, fun a ha => hframe a (by omega), hmem⟩
  have hkx : k.val < x.val + 1 := Nat.lt_succ_of_le hk
  rw [hbyte k.val (by omega), s.regsUpTo_getElem x hkx]

/-! ### Loading registers from memory -/

/-- A load of `n` bytes from `V[0]` on leaves the registers from `V[n]` on as they were. -/
theorem getElem_loadV_map_range (f : Nat → Byte) (n : Nat) (v : Vector Byte 16) (k : RegNum) :
    (loadV 0 ((List.range n).map f) v)[k.val] = if k.val < n then f k.val else v[k.val] := by
  rw [loadV_getElem, if_pos (Nat.zero_le _), Nat.sub_zero]
  split
  · next hk => simp [hk]
  · next hk => simp [hk]

theorem exec_loadRegs_ok {x : RegNum} {s : State} (hfit : s.i.toNat + x.val ≤ 0xFFF) :
    exec (.loadRegs x) s =
      .next { s with v := loadV 0 ((List.range (x.val + 1)).map fun k => s.byteAt (s.i.toNat + k)) s.v } := by
  change execLoadRegs x s = _
  rw [execLoadRegs, readBytes_ok (by rw [State.ea]; omega)]
  rfl

/-- Settles O28: the execute step reads `x + 1` bytes from `I` on and loads them from `V[0]` on. -/
theorem loadRegsLoadsRegisters : Obligations.LoadRegsLoadsRegisters := by
  intro x s
  refine ⟨decodeWord_loadRegs x, fun hfit => ?_, fun hpast => ?_⟩
  · refine ⟨_, exec_loadRegs_ok hfit, fun k hk => ?_, fun k hk => ?_, rfl⟩
    · exact (getElem_loadV_map_range _ _ s.v k).trans (if_pos (Nat.lt_succ_of_le hk))
    · exact (getElem_loadV_map_range _ _ s.v k).trans (if_neg (Nat.not_lt.mpr hk))
  · change HaltsWith (execLoadRegs x s) _ _ _ _
    rw [execLoadRegs, readBytes_error (by rw [State.ea]; omega) (by omega)]
    exact haltsWith_memOutOfRange s _

end Sys2Proof.Machine

/-!
Timer moves and the key wait (spec 46_timer_key.md R210 to R213, R282).
-/

namespace Sys2Proof

open Spec

/-! ### The words -/

theorem decodeWord_ldVxDt (x : RegNum) : decodeWord (wordX 0xF007 x) = .ldVxDt x :=
  decodeWord_wordX_F (nn := 0x07) (fun _ hnn => by rw [decodeF, hnn]; rfl) x

theorem decodeWord_ldVxK (x : RegNum) : decodeWord (wordX 0xF00A x) = .ldVxK x :=
  decodeWord_wordX_F (nn := 0x0A) (fun _ hnn => by rw [decodeF, hnn]; rfl) x

theorem decodeWord_ldDtVx (x : RegNum) : decodeWord (wordX 0xF015 x) = .ldDtVx x :=
  decodeWord_wordX_F (nn := 0x15) (fun _ hnn => by rw [decodeF, hnn]; rfl) x

theorem decodeWord_ldStVx (x : RegNum) : decodeWord (wordX 0xF018 x) = .ldStVx x :=
  decodeWord_wordX_F (nn := 0x18) (fun _ hnn => by rw [decodeF, hnn]; rfl) x

end Sys2Proof

namespace Sys2Proof.Machine

/-! ### The cycle of an instruction that raises no fault -/

theorem timerTick_of_cadence_nine {s : State} (h : s.cadence.val = 9) :
    timerTick s = ((s.setDt (countDown s.dt)).setSt (countDown s.st)).setCadence 0 :=
  dif_neg (by rw [h]; decide)

section
variable {i : Instr} {s t : State} {rand : Byte}

/-- A cycle whose execute step leaves the core running ends in the tick of the state that step answers (R77). -/
theorem stepWith_of_exec (hrun : s.running = true) (hpc : s.pc.toNat + 1 ≤ 0xFFF)
    (hdecode : decode (s.byteAt s.pc.toNat) (s.byteAt (s.pc.toNat + 1)) = i)
    (hexec : exec i (advance (beginCycle rand s)) = .next t) (ht : t.running = true) :
    stepWith rand s = .next (timerTick t) := by
  rw [stepWith_fetched rand hrun hpc, hdecode, hexec, closeCycle_next_running ht]

/-- On the tenth cycle both timers are decremented after the execute step, whose writes the decrement sees. -/
theorem stepWith_tenth (hrun : s.running = true) (hpc : s.pc.toNat + 1 ≤ 0xFFF)
    (hdecode : decode (s.byteAt s.pc.toNat) (s.byteAt (s.pc.toNat + 1)) = i)
    (hexec : exec i (advance (beginCycle rand s)) = .next t) (ht : t.running = true) (hcad : t.cadence.val = 9) :
    stepWith rand s = .next (((t.setDt (countDown t.dt)).setSt (countDown t.st)).setCadence 0) := by
  rw [stepWith_of_exec hrun hpc hdecode hexec ht, timerTick_of_cadence_nine hcad]

end

/-! ### Timer moves -/

theorem exec_ldVxDt (x : RegNum) (s : State) : exec (.ldVxDt x) s = .next (s.setV x s.dt) := rfl

theorem exec_ldDtVx (x : RegNum) (s : State) : exec (.ldDtVx x) s = .next (s.setDt (s.getV x)) := rfl

theorem exec_ldStVx (x : RegNum) (s : State) : exec (.ldStVx x) s = .next (s.setSt (s.getV x)) := rfl

/-- Settles O33: each move is one write, and the tick of a tenth cycle counts down from the state after it. -/
theorem timerMoves : Obligations.TimerMoves := by
  intro x s
  refine ⟨decodeWord_ldVxDt x, decodeWord_ldDtVx x, decodeWord_ldStVx x,
    ⟨_, exec_ldVxDt x s, s.getV_setV_same x s.dt, s.setV_frame x s.dt⟩, exec_ldDtVx x s, exec_ldStVx x s,
    fun hrun hpc hcad => ?_⟩
  intro i rand
  refine ⟨fun hi => ?_, fun hi => ?_, fun hi => ?_⟩
  · refine ⟨_, stepWith_tenth hrun hpc hi (exec_ldVxDt x _) hrun hcad, ?_, countDown_toNat s.dt, rfl⟩
    exact State.getV_setV_same _ x s.dt
  · exact ⟨_, stepWith_tenth hrun hpc hi (exec_ldDtVx x _) hrun hcad, countDown_toNat (s.getV x), rfl⟩
  · exact ⟨_, stepWith_tenth hrun hpc hi (exec_ldStVx x _) hrun hcad, countDown_toNat (s.getV x), rfl⟩

/-! ### The key wait -/

/-- The search finds the held key below which none is held. -/
theorem State.firstHeld_eq_some {s : State} {k : RegNum} (hk : s.key k = true) (hlow : ∀ j < k, s.key j = false) :
    s.firstHeld = some k.val := by
  cases hfirst : s.firstHeld with
  | none => exact absurd hk (by simp [s.firstHeld_none hfirst k])
  | some j =>
    obtain ⟨hj, hheld, hbelow⟩ := s.firstHeld_some hfirst
    rcases Nat.lt_trichotomy j k.val with hlt | heq | hgt
    · exact absurd hheld (by simp [hlow ⟨j, hj⟩ hlt])
    · rw [heq]
    · exact absurd hk (by simp [hbelow k hgt])

theorem State.firstHeld_eq_none {s : State} (h : ∀ k, s.key k = false) : s.firstHeld = none := by
  cases hfirst : s.firstHeld with
  | none => rfl
  | some j =>
    obtain ⟨hj, hheld, -⟩ := s.firstHeld_some hfirst
    exact absurd hheld (by simp [h ⟨j, hj⟩])

section
variable {x : RegNum} {s : State}

theorem exec_ldVxK_of_held {k : Nat} (h : s.firstHeld = some k) :
    exec (.ldVxK x) s = .next (s.setV x (BitVec.ofNat 8 k)) := by
  change execLdVxK x s = _
  rw [execLdVxK, h]

theorem exec_ldVxK_of_none_held (h : s.firstHeld = none) : exec (.ldVxK x) s = .next (s.setPc (s.pc - 2)) := by
  change execLdVxK x s = _
  rw [execLdVxK, h]

/-- After the fetch advance a failed attempt stands at its own address again. -/
theorem exec_ldVxK_advance {rand : Byte} (h : s.firstHeld = none) :
    exec (.ldVxK x) (advance (beginCycle rand s)) = .next (beginCycle rand s) := by
  have hpc : s.pc + 2 - 2 = s.pc := BitVec.add_sub_cancel s.pc 2
  rw [exec_ldVxK_of_none_held (s := advance (beginCycle rand s)) h]
  change Host.Outcome.next ((beginCycle rand s).setPc (s.pc + 2 - 2)) = _
  rw [hpc]
  rfl

end

/-- Settles O34: the search finds the lowest held key, and a failed attempt undoes the fetch advance. -/
theorem keyWaitTakesLowestHeldKey : Obligations.KeyWaitTakesLowestHeldKey := by
  intro x s
  refine ⟨decodeWord_ldVxK x, fun k hk hlow => ?_, fun hnone => ?_⟩
  · refine ⟨_, exec_ldVxK_of_held (s.firstHeld_eq_some hk hlow), ?_, s.setV_frame x _⟩
    rw [State.getV_setV_same, BitVec.toNat_ofNat]
    omega
  · have hfirst : s.firstHeld = none := s.firstHeld_eq_none hnone
    exact ⟨exec_ldVxK_of_none_held hfirst, fun rand hrun hpc hdecode =>
      stepWith_of_exec hrun hpc hdecode (exec_ldVxK_advance hfirst) hrun⟩

end Sys2Proof.Machine

/-!
The timer tick and the random byte (spec 60_exceptions.md R251, R257).
-/

namespace Sys2Proof.Machine

/-! ### The timer tick -/

theorem timerTick_of_cadence_lt_nine {s : State} (h : s.cadence.val < 9) :
    timerTick s = s.setCadence ⟨s.cadence.val + 1, Nat.succ_lt_succ h⟩ :=
  dif_pos (Nat.succ_lt_succ h)

/-- Settles O40: below 9 the tick writes CADENCE alone, and at 9 CADENCE and the two timers counted down. -/
theorem timerTickCountsTen : Obligations.TimerTickCountsTen := by
  refine fun s => ⟨fun hlt => ?_, fun hnine => ?_⟩
  · rw [timerTick_of_cadence_lt_nine hlt]
    exact ⟨rfl, rfl⟩
  · rw [timerTick_of_cadence_nine hnine]
    exact ⟨rfl, countDown_toNat s.dt, countDown_toNat s.st, rfl⟩

/-! ### The random byte

The state after a cycle depends on the latched byte in the latch alone, unless the cycle executes `Cxnn`: each shared
operation commutes with a change of the latch, so each meaning does. -/

/-- The state with another random byte latched. -/
def State.withRand (s : State) (r : Byte) : State := { s with rand := r }

/-- The first outcome is a next state, and the second is that state with the byte `r` latched. -/
def DiffersInRand (r : Byte) (o p : Result) : Prop := ∃ t, o = .next t ∧ p = .next (t.withRand r)

section
variable (s : State) (r : Byte)

@[simp] theorem State.withRand_pc : (s.withRand r).pc = s.pc := rfl
@[simp] theorem State.withRand_disp : (s.withRand r).disp = s.disp := rfl
@[simp] theorem State.withRand_getV (x : RegNum) : (s.withRand r).getV x = s.getV x := rfl
@[simp] theorem State.withRand_ea (k : Nat) : (s.withRand r).ea k = s.ea k := rfl
@[simp] theorem State.withRand_running : (s.withRand r).running = s.running := rfl

theorem keyHeld_withRand (k : Nat) : keyHeld (s.withRand r) k = keyHeld s k := rfl

theorem memRead_withRand (a : Nat) : memRead (s.withRand r) a = memRead s a := rfl

theorem skipIf_withRand (c : Bool) : skipIf c (s.withRand r) = (skipIf c s).withRand r := by cases c <;> rfl

theorem pop_withRand : pop (s.withRand r) = (pop s).map fun p => (p.1, p.2.withRand r) := by
  rcases s.stack.eq_nil_or_concat' with hempty | ⟨l, w, htop⟩
  · rw [pop_empty hempty, pop_empty (s := s.withRand r) hempty]; rfl
  · rw [pop_top htop, pop_top (s := s.withRand r) htop]; rfl

theorem push_withRand (w : Word) : push (s.withRand r) w = (push s w).map (·.withRand r) := by
  cases hcap : s.params.stackCapacity with
  | none => rw [push_unbounded w hcap, push_unbounded (s := s.withRand r) w hcap]; rfl
  | some cap =>
    by_cases hfull : s.stack.length = cap
    · rw [push_full w hcap hfull, push_full (s := s.withRand r) w hcap hfull]; rfl
    · rw [push_below w hcap hfull, push_below (s := s.withRand r) w hcap hfull]; rfl

theorem storeBytes_withRand (a : Nat) (bs : List Byte) :
    storeBytes a bs (s.withRand r) = (storeBytes a bs s).map (·.withRand r) := by
  induction bs generalizing s a with
  | nil => rfl
  | cons b bs ih =>
    by_cases ha : a ≤ 0xFFF
    · rw [storeBytes, storeBytes, memWrite_ok ha, memWrite_ok ha]
      exact ih (s.setByte a b) (a + 1)
    · rw [storeBytes, storeBytes, memWrite_error (by omega), memWrite_error (by omega)]
      rfl

theorem readBytes_withRand (a n : Nat) : readBytes (s.withRand r) a n = readBytes s a n := by
  induction n generalizing a with
  | zero => rfl
  | succ n ih => rw [readBytes, readBytes, memRead_withRand, ih]

theorem drawRows_withRand (ox oy : Nat) (rows : List Nat) (d : Display) :
    drawRows (s.withRand r) ox oy rows d = drawRows s ox oy rows d := by
  induction rows generalizing d with
  | nil => rfl
  | cons row rows ih => simp only [drawRows, memRead_withRand, State.withRand_ea, ih]

theorem timerTick_withRand : timerTick (s.withRand r) = (timerTick s).withRand r := by
  by_cases hlt : s.cadence.val < 9
  · rw [timerTick_of_cadence_lt_nine hlt, timerTick_of_cadence_lt_nine (s := s.withRand r) hlt]; rfl
  · have hnine : s.cadence.val = 9 := by omega
    rw [timerTick_of_cadence_nine hnine, timerTick_of_cadence_nine (s := s.withRand r) hnine]; rfl

theorem endCycle_withRand : endCycle (s.withRand r) = (endCycle s).withRand r := by
  rw [endCycle, endCycle, State.withRand_running, timerTick_withRand]
  exact (apply_ite (State.withRand · r) _ _ _).symm

/-- Taking a fault reads no random byte, so an operation that commutes with a change of the latch keeps the outcomes
apart in the latch alone. -/
theorem complete_differsInRand {e e' : Except Fatal State} (h : e' = e.map (·.withRand r)) :
    DiffersInRand r (complete s e) (complete (s.withRand r) e') := by
  subst h
  cases e with
  | ok t => exact ⟨t, rfl, rfl⟩
  | error f => exact ⟨takeFault f s.fetchPc s, rfl, rfl⟩

/-- R152, R257: an execute step of any instruction but `Cxnn` carries the latched byte along unread. -/
theorem exec_differsInRand {i : Instr} (h : ∀ x nn, i ≠ .rnd x nn) :
    DiffersInRand r (exec i s) (exec i (s.withRand r)) := by
  cases i with
  | rnd x nn => exact absurd rfl (h x nn)
  | nop | cls | jp | jpV0 | unrecognised | ldByte | addByte | ldReg | orReg | andReg | xorReg | addReg | subReg
  | shr | subnReg | shl | ldI | ldFont | ldVxDt | ldDtVx | ldStVx => exact ⟨_, rfl, rfl⟩
  | seByte | sneByte | seReg | sneReg => exact ⟨_, rfl, congrArg _ (skipIf_withRand s r _)⟩
  | ldVxK x =>
    cases hheld : s.firstHeld with
    | some k => exact ⟨_, exec_ldVxK_of_held hheld, exec_ldVxK_of_held (s := s.withRand r) hheld⟩
    | none => exact ⟨_, exec_ldVxK_of_none_held hheld, exec_ldVxK_of_none_held (s := s.withRand r) hheld⟩
  | ret =>
    refine complete_differsInRand s r ?_
    rw [pop_withRand]
    cases pop s <;> rfl
  | call nnn =>
    refine complete_differsInRand s r ?_
    rw [push_withRand, State.withRand_pc]
    cases push s s.pc <;> rfl
  | skp x | sknp x =>
    refine complete_differsInRand s r ?_
    rw [keyHeld_withRand, State.withRand_getV]
    cases keyHeld s (s.getV x).toNat with
    | ok held => exact congrArg _ (skipIf_withRand s r _)
    | error f => rfl
  | addI x =>
    refine complete_differsInRand s r ?_
    rw [apply_ite (Except.map _)]
    rfl
  | ldBcd x => exact complete_differsInRand s r (storeBytes_withRand s r _ _)
  | storeRegs x => exact complete_differsInRand s r (storeBytes_withRand s r _ _)
  | loadRegs x =>
    refine complete_differsInRand s r ?_
    rw [readBytes_withRand, State.withRand_ea]
    cases readBytes s (s.ea 0) (x.val + 1) <;> rfl
  | drw x y n =>
    refine complete_differsInRand s r ?_
    rw [drawRows_withRand, State.withRand_disp, State.withRand_getV, State.withRand_getV]
    cases drawRows s (s.getV x).toNat (s.getV y).toNat (List.range n.val) s.disp <;> rfl

/-- Two cycles of a running core whose word is no `Cxnn` carry their random bytes along unread. -/
theorem stepWith_differsInRand (r₀ : Byte) (hrun : s.running = true)
    (h : ∀ x nn, decode (s.byteAt s.pc.toNat) (s.byteAt (s.pc.toNat + 1)) ≠ .rnd x nn) :
    DiffersInRand r (stepWith r₀ s) (stepWith r s) := by
  by_cases hpc : s.pc.toNat + 1 ≤ 0xFFF
  · obtain ⟨t, ht, hu⟩ := exec_differsInRand (advance (beginCycle r₀ s)) r h
    refine ⟨endCycle t, ?_, ?_⟩
    · rw [stepWith_fetched r₀ hrun hpc, ht, closeCycle]
    · rw [stepWith_fetched r hrun hpc, ← endCycle_withRand]
      exact congrArg closeCycle hu
  · have hpc : 0xFFF < s.pc.toNat + 1 := Nat.lt_of_not_le hpc
    rw [stepWith_running r₀ hrun, stepWith_running r hrun, runCycle_fetch_error (s := beginCycle r₀ s) hpc,
      runCycle_fetch_error (s := beginCycle r s) hpc]
    exact ⟨_, rfl, rfl⟩

end

/-- Settles O56: a halted core keeps its state, and a cycle of a running core leaves the byte in the latch alone. -/
theorem onlyRndReadsTheRandomByte : Obligations.OnlyRndReadsTheRandomByte := by
  intro r r' s h
  cases hrun : s.running with
  | false => exact ⟨s, s, stepWith_halted r hrun, stepWith_halted r' hrun, rfl, rfl, fun _ => rfl⟩
  | true =>
    obtain ⟨t, ht, hu⟩ := stepWith_differsInRand s r' r hrun h
    exact ⟨t, t.withRand r', ht, hu, rfl, rfl, fun _ => rfl⟩

end Sys2Proof.Machine

/-!
Decoding and encoding as inverses (spec 30_encoding.md R73, R74, R86), and the words of the remaining lines.
-/

namespace Sys2Proof

open Spec

/-! ### The words of CALL, the shifts, ADD I and DRW -/

theorem decodeWord_call (nnn : Addr12) : decodeWord (wordNNN 0x2000 nnn) = .call nnn := by
  rw [show (0x2000 : Word) = 0x2#4 ++ 0#12 from rfl, wordNNN_eq_append, decodeWord, nibbleA_append, fieldNNN_append]
  rfl

theorem decodeWord_shr (x y : RegNum) : decodeWord (wordXY 0x8006 x y) = .shr x y :=
  decodeWord_wordXY_8 (d := 0x6) (fun _ hd => by rw [decode8, hd]; rfl) x y

theorem decodeWord_shl (x y : RegNum) : decodeWord (wordXY 0x800E x y) = .shl x y :=
  decodeWord_wordXY_8 (d := 0xE) (fun _ hd => by rw [decode8, hd]; rfl) x y

theorem decodeWord_addI (x : RegNum) : decodeWord (wordX 0xF01E x) = .addI x :=
  decodeWord_wordX_F (nn := 0x1E) (fun _ hnn => by rw [decodeF, hnn]; rfl) x

theorem fieldN_xyd (a : BitVec 4) (x y : RegNum) (n : RowCount) :
    fieldN (a ++ regBits x ++ regBits y ++ regBits n) = n :=
  congrArg BitVec.toFin (nibbleD_xyd a (regBits n) x y)

theorem decodeWord_Dxyn (x y : RegNum) (n : RowCount) :
    decodeWord (0xD#4 ++ regBits x ++ regBits y ++ regBits n) = .drw x y n := by
  rw [decodeWord, nibbleA_xyd, fieldX_xyd, fieldY_xyd, fieldN_xyd]
  rfl

theorem decodeWord_drw (x y : RegNum) (n : RowCount) :
    decodeWord (wordXY 0xD000 x y ||| BitVec.ofNat 16 n.val) = .drw x y n := by
  rw [show (0xD000 : Word) = 0xD#4 ++ 0#4 ++ 0#4 ++ 0#4 from rfl, wordXY_or_count, decodeWord_Dxyn]

/-! ### The unrecognised words -/

/-- A field whose number is known, as the tests of R86's list write it. -/
theorem field_eq_ofNat {k n : Nat} {b : BitVec k} (h : b.toNat = n) : b = BitVec.ofNat k n := by
  rw [← h, BitVec.ofNat_toNat, BitVec.setWidth_eq]

section
variable {w : Word}

theorem decode0_eq_unrecognised_iff (ha : (nibbleA w).toNat = 0x0) :
    decode0 w = .unrecognised w ↔ unrecognisedWord w = true := by
  have ha : w.extractLsb' 12 4 = 0#4 := field_eq_ofNat ha
  simp only [decode0, unrecognisedWord, ha]
  split_ifs <;> simp_all

theorem decode5_eq_unrecognised_iff (ha : (nibbleA w).toNat = 0x5) :
    decode5 w = .unrecognised w ↔ unrecognisedWord w = true := by
  have ha : w.extractLsb' 12 4 = 5#4 := field_eq_ofNat ha
  simp only [decode5, nibbleD, unrecognisedWord, ha]
  split_ifs <;> simp_all

theorem decode9_eq_unrecognised_iff (ha : (nibbleA w).toNat = 0x9) :
    decode9 w = .unrecognised w ↔ unrecognisedWord w = true := by
  have ha : w.extractLsb' 12 4 = 9#4 := field_eq_ofNat ha
  simp only [decode9, nibbleD, unrecognisedWord, ha]
  split_ifs <;> simp_all

/-- The last nibbles that name no operation of the group `8` are on R86's list. -/
theorem nibble_listed_of_unnamed : ∀ d : BitVec 4, 7 < d.toNat → d.toNat ≠ 14 →
    (d == 0x8 || d == 0x9 || d == 0xA || d == 0xB || d == 0xC || d == 0xD || d == 0xF) = true := by decide

theorem decode8_eq_unrecognised_iff (ha : (nibbleA w).toNat = 0x8) :
    decode8 w = .unrecognised w ↔ unrecognisedWord w = true := by
  have ha : w.extractLsb' 12 4 = 8#4 := field_eq_ofNat ha
  unfold decode8
  split
  case h_10 =>
    simp only [imp_false] at *
    have hlisted := nibble_listed_of_unnamed (w.extractLsb' 0 4) (by rw [← nibbleD]; omega) ‹_›
    simp only [unrecognisedWord, ha, hlisted]
    simp
  all_goals
    next hd =>
      have hd : w.extractLsb' 0 4 = _ := field_eq_ofNat hd
      simp [unrecognisedWord, ha, hd]

theorem decodeE_eq_unrecognised_iff (ha : (nibbleA w).toNat = 0xE) :
    decodeE w = .unrecognised w ↔ unrecognisedWord w = true := by
  have ha : w.extractLsb' 12 4 = 14#4 := field_eq_ofNat ha
  unfold decodeE
  split
  case h_3 => simp_all [unrecognisedWord, BitVec.toNat_eq, fieldNN]
  all_goals
    next hnn =>
      have hnn : w.extractLsb' 0 8 = _ := field_eq_ofNat hnn
      simp [unrecognisedWord, ha, hnn]

theorem decodeF_eq_unrecognised_iff (ha : (nibbleA w).toNat = 0xF) :
    decodeF w = .unrecognised w ↔ unrecognisedWord w = true := by
  have ha : w.extractLsb' 12 4 = 15#4 := field_eq_ofNat ha
  unfold decodeF
  split
  case h_10 => simp_all [unrecognisedWord, BitVec.toNat_eq, fieldNN]
  all_goals
    next hnn =>
      have hnn : w.extractLsb' 0 8 = _ := field_eq_ofNat hnn
      simp [unrecognisedWord, ha, hnn]

end

/-- The words that decode to the catch-all are those of R86's list. -/
theorem decodeWord_eq_unrecognised_iff (w : Word) : decodeWord w = .unrecognised w ↔ unrecognisedWord w = true := by
  unfold decodeWord
  split
  case h_1 _ ha => exact decode0_eq_unrecognised_iff ha
  case h_6 _ ha => exact decode5_eq_unrecognised_iff ha
  case h_9 _ ha => exact decode8_eq_unrecognised_iff ha
  case h_10 _ ha => exact decode9_eq_unrecognised_iff ha
  case h_15 _ ha => exact decodeE_eq_unrecognised_iff ha
  case h_16 => exact decodeF_eq_unrecognised_iff (by simp only [imp_false] at *; omega)
  all_goals next ha =>
    have ha : w.extractLsb' 12 4 = _ := field_eq_ofNat ha
    simp [unrecognisedWord, ha]

/-! ### Encoding and decoding -/

theorem wellFormed_decodeWord (w : Word) : (decodeWord w).wellFormed = true := by
  obtain ⟨u, hu⟩ | ⟨hwf, -⟩ := exists_row_of_instr (decodeWord w)
  · have huw : u = w := by rw [← encode_decodeWord w, hu]; rfl
    rw [hu, huw]
    exact (decodeWord_eq_unrecognised_iff w).mp (hu.trans (congrArg _ huw))
  · exact hwf

/-- Settles O3: encoding undoes decoding, and only the words of R86's list decode to the catch-all. -/
theorem encodeOfDecode : Obligations.EncodeOfDecode := fun w => ⟨wellFormed_decodeWord w, encode_decodeWord w⟩

/-! The fields of an instruction's word in the form `encode` writes it, from the spec's encoding line. -/

section
variable {a d : BitVec 4} {nn : Byte} {x y : RegNum} {nnn : Addr12} {i : Instr}

theorem decodeWord_of_wordNNN (h : decodeWord (wordNNN (a ++ 0#12) nnn) = i) : decodeWord (a ++ nnn) = i := by
  rwa [wordNNN_eq_append] at h

theorem decodeWord_of_wordXNN (h : decodeWord (wordXNN (a ++ 0#4 ++ 0#8) x nn) = i) :
    decodeWord (a ++ regBits x ++ nn) = i := by
  rwa [wordXNN_eq_append] at h

theorem decodeWord_of_wordXY (h : decodeWord (wordXY (a ++ 0#4 ++ 0#4 ++ d) x y) = i) :
    decodeWord (a ++ regBits x ++ regBits y ++ d) = i := by
  rwa [wordXY_eq_append] at h

theorem decodeWord_of_wordX (h : decodeWord (wordX (a ++ 0#4 ++ nn) x) = i) :
    decodeWord (a ++ regBits x ++ nn) = i := by
  rwa [wordX_eq_append] at h

end

/-- Decoding undoes encoding, for each form of word. -/
theorem decodeWord_encode : ∀ i : Instr, i.wellFormed = true → decodeWord (encode i) = i
  | .nop, _ | .cls, _ | .ret, _ => rfl
  | .jp _, _ => decodeWord_of_wordNNN (decodeWord_jp _)
  | .call _, _ => decodeWord_of_wordNNN (decodeWord_call _)
  | .ldI _, _ => decodeWord_of_wordNNN (decodeWord_ldI _)
  | .jpV0 _, _ => decodeWord_of_wordNNN (decodeWord_jpV0 _)
  | .seByte _ _, _ => decodeWord_of_wordXNN (decodeWord_seByte _ _)
  | .sneByte _ _, _ => decodeWord_of_wordXNN (decodeWord_sneByte _ _)
  | .ldByte _ _, _ => decodeWord_of_wordXNN (decodeWord_ldByte _ _)
  | .addByte _ _, _ => decodeWord_of_wordXNN (decodeWord_addByte _ _)
  | .rnd _ _, _ => decodeWord_of_wordXNN (decodeWord_rnd _ _)
  | .seReg _ _, _ => decodeWord_of_wordXY (decodeWord_seReg _ _)
  | .sneReg _ _, _ => decodeWord_of_wordXY (decodeWord_sneReg _ _)
  | .ldReg _ _, _ => decodeWord_of_wordXY (decodeWord_ldReg _ _)
  | .orReg _ _, _ => decodeWord_of_wordXY (decodeWord_orReg _ _)
  | .andReg _ _, _ => decodeWord_of_wordXY (decodeWord_andReg _ _)
  | .xorReg _ _, _ => decodeWord_of_wordXY (decodeWord_xorReg _ _)
  | .addReg _ _, _ => decodeWord_of_wordXY (decodeWord_addReg _ _)
  | .subReg _ _, _ => decodeWord_of_wordXY (decodeWord_subReg _ _)
  | .shr _ _, _ => decodeWord_of_wordXY (decodeWord_shr _ _)
  | .subnReg _ _, _ => decodeWord_of_wordXY (decodeWord_subnReg _ _)
  | .shl _ _, _ => decodeWord_of_wordXY (decodeWord_shl _ _)
  | .drw x y n, _ => decodeWord_Dxyn x y n
  | .skp _, _ => decodeWord_of_wordX (decodeWord_skp _)
  | .sknp _, _ => decodeWord_of_wordX (decodeWord_sknp _)
  | .ldVxDt _, _ => decodeWord_of_wordX (decodeWord_ldVxDt _)
  | .ldVxK _, _ => decodeWord_of_wordX (decodeWord_ldVxK _)
  | .ldDtVx _, _ => decodeWord_of_wordX (decodeWord_ldDtVx _)
  | .ldStVx _, _ => decodeWord_of_wordX (decodeWord_ldStVx _)
  | .addI _, _ => decodeWord_of_wordX (decodeWord_addI _)
  | .ldFont _, _ => decodeWord_of_wordX (decodeWord_ldFont _)
  | .ldBcd _, _ => decodeWord_of_wordX (decodeWord_ldBcd _)
  | .storeRegs _, _ => decodeWord_of_wordX (decodeWord_storeRegs _)
  | .loadRegs _, _ => decodeWord_of_wordX (decodeWord_loadRegs _)
  | .unrecognised w, hwf => (decodeWord_eq_unrecognised_iff w).mpr hwf

/-- The two bytes of a word, the high one first, make the word (R56, R71). -/
theorem wordOf_bytes (w : Word) : wordOf (w.extractLsb' 8 8) (w.extractLsb' 0 8) = w := by
  apply BitVec.eq_of_toNat_eq
  rw [wordOf, toNat_append_eq, toNat_field, toNat_field]
  omega

theorem decodeBytes_encodeBytes (i : Instr) (rest : List Byte) :
    decodeBytes (encodeBytes i ++ rest) = .ok (decodeWord (encode i), rest) := by
  rw [← wordOf_bytes (encode i)]
  rfl

/-- Settles O2: a word's fields are those it was written from, and its two bytes make the word. -/
theorem decodeOfEncode : Obligations.DecodeOfEncode := by
  intro i rest hwf
  have hword := decodeWord_encode i hwf
  exact ⟨hword, by rw [decodeBytes_encodeBytes, hword]⟩

/-- Settles O1: each word selects its instruction and operands. -/
theorem sampleWordsDecode : Obligations.SampleWordsDecode := by
  unfold Obligations.SampleWordsDecode
  decide

end Sys2Proof

namespace Sys2Proof.Machine

/-- Settles O5: R86's words decode to the catch-all, whose execute step answers its state. -/
theorem unrecognisedWordIsNoOp : Obligations.UnrecognisedWordIsNoOp := by
  intro w s hw
  have hdecode := (decodeWord_eq_unrecognised_iff w).mpr hw
  have hexec (t : State) : exec (.unrecognised w) t = .next t := rfl
  refine ⟨hdecode, hexec s, fun rand hrun hpc hword => ?_⟩
  exact stepWith_of_noOp rand hexec hrun hpc ((congrArg decodeWord hword).trans hdecode)

end Sys2Proof.Machine

/-!
Shifts (spec 43_alu.md R149, R151): the flag is written first, so for `x = F` the shift overwrites it.
-/

namespace Sys2Proof.Machine

/-! ### Shifts -/

theorem shiftRight8_toNat (p : Byte) : (shiftRight8 p).toNat = p.toNat / 2 := by
  rw [shiftRight8, BitVec.toNat_ushiftRight, Nat.shiftRight_eq_div_pow, Nat.pow_one]

theorem bitOutRight_toNat (p : Byte) : (bitOutRight p).toNat = p.toNat % 2 := by
  rw [bitOutRight, BitVec.toNat_and]
  exact Nat.and_one_is_mod p.toNat

theorem shiftLeft8_toNat (p : Byte) : (shiftLeft8 p).toNat = p.toNat * 2 % 256 := by
  rw [shiftLeft8, BitVec.toNat_shiftLeft, Nat.shiftLeft_eq, Nat.pow_one]

theorem bitOutLeft_toNat (p : Byte) : (bitOutLeft p).toNat = p.toNat / 128 := by
  rw [bitOutLeft, BitVec.toNat_ushiftRight, Nat.shiftRight_eq_div_pow]

/-- The bit shifted out written to VF, and then `V[x]` as it stands shifted: what every register holds after that. -/
theorem shift_after_flag {s t : State} (x : RegNum) (f : Byte) (shift : Byte → Byte)
    (ht : t = (s.setV vf f).setV x (shift ((s.setV vf f).getV x))) :
    (x ≠ 15 → t.getV x = shift (s.getV x) ∧ t.getV 15 = f) ∧ (x = 15 → t.getV 15 = shift f) ∧
      (∀ j, j ≠ x → j ≠ 15 → t.getV j = s.getV j) ∧ t = { s with v := t.v } := by
  subst ht
  refine ⟨fun hx => ⟨?_, ?_⟩, fun hx => ?_, fun j hjx hjf => ?_, rfl⟩
  · rw [State.getV_setV_same, State.getV_setV_ne s (x := vf) f hx]
  · rw [State.getV_setV_ne _ _ (Ne.symm hx)]
    exact s.getV_setV_same vf f
  · subst hx
    rw [State.getV_setV_same, ← vf, State.getV_setV_same]
  · rw [State.getV_setV_ne _ _ hjx, State.getV_setV_ne s (x := vf) f hjf]

/-- Settles O21: a byte of 0 or 1 shifted right is 0. -/
theorem shrShiftsInPlace : Obligations.ShrShiftsInPlace := by
  intro x y s
  obtain ⟨hother, hflag, hframe⟩ := shift_after_flag (s := s) x (bitOutRight (s.getV x)) shiftRight8 rfl
  refine ⟨decodeWord_shr x y, _, rfl, fun hx => ?_, fun hx => ?_, hframe⟩
  · obtain ⟨hvx, hvf⟩ := hother hx
    rw [hvx, hvf, shiftRight8_toNat, bitOutRight_toNat]
    exact ⟨rfl, rfl⟩
  · apply BitVec.eq_of_toNat_eq
    rw [hflag hx, shiftRight8_toNat, bitOutRight_toNat]
    exact Nat.div_eq_of_lt (Nat.mod_lt _ (by decide))

/-- Settles O22: a byte of 0 or 1 shifted left is 0 or 2. -/
theorem shlShiftsInPlace : Obligations.ShlShiftsInPlace := by
  intro x y s
  obtain ⟨hother, hflag, hframe⟩ := shift_after_flag (s := s) x (bitOutLeft (s.getV x)) shiftLeft8 rfl
  refine ⟨decodeWord_shl x y, _, rfl, fun hx => ?_, fun hx => ?_, hframe⟩
  · obtain ⟨hvx, hvf⟩ := hother hx
    rw [hvx, hvf, shiftLeft8_toNat, bitOutLeft_toNat]
    exact ⟨rfl, rfl⟩
  · rw [hflag hx, shiftLeft8_toNat, bitOutLeft_toNat, hx]
    split <;> omega

end Sys2Proof.Machine

/-!
The stack instructions and ADD I, with their faults (spec 41_flow.md R102, R104; 44_index_memory.md R171).
-/

namespace Sys2Proof.Machine

section
variable {s : State}

/-! ### The stack -/

theorem exec_ret_of_top {l : List Word} {w : Word} (h : s.stack = l ++ [w]) :
    exec .ret s = .next { s with pc := w, stack := l } := by
  change execRet s = _
  rw [execRet, pop_top h]
  rfl

theorem exec_ret_of_empty (h : s.stack = []) :
    exec .ret s = .next (takeFault ⟨.stackUnderflow, stackFaultValue s 0⟩ (s.pc - 2) s) := by
  change execRet s = _
  rw [execRet, pop_empty h]
  rfl

theorem push_not_full (w : Word) (h : s.params.stackCapacity ≠ some s.stack.length) :
    push s w = .ok (s.setStack (s.stack ++ [w])) := by
  cases hcap : s.params.stackCapacity with
  | none => exact push_unbounded w hcap
  | some cap => exact push_below w hcap fun hlen => h (by rw [hcap, hlen])

theorem exec_call_of_not_full (nnn : Addr12) (h : s.params.stackCapacity ≠ some s.stack.length) :
    exec (.call nnn) s = .next { s with pc := addr nnn, stack := s.stack ++ [s.pc] } := by
  change execCall nnn s = _
  rw [execCall, push_not_full s.pc h]
  rfl

theorem exec_call_of_full (nnn : Addr12) (h : s.params.stackCapacity = some s.stack.length) :
    exec (.call nnn) s =
      .next (takeFault ⟨.stackOverflow, stackFaultValue s s.stack.length⟩ (s.pc - 2) s) := by
  change execCall nnn s = _
  rw [execCall, push_full s.pc h rfl]
  rfl

end

/-- Settles O8: the last return address goes to `pc`, and the fault's value is that of the build's account. -/
theorem retPopsOrUnderflows : Obligations.RetPopsOrUnderflows := by
  refine ⟨rfl, fun s => ⟨fun l w => exec_ret_of_top, fun hempty hrow => ?_, fun hempty hfetch => ?_⟩⟩
  · rw [exec_ret_of_empty hempty, stackFaultValue_tableRow 0 hrow]
    exact haltsWith_takeFault _ _ rfl
  · rw [exec_ret_of_empty hempty, stackFaultValue_fetchAddress 0 hfetch]
    exact haltsWith_takeFault _ _ rfl

/-- Settles O10: the advanced `pc` is pushed, and the fault's value is that of the build's account. -/
theorem callPushesOrOverflows : Obligations.CallPushesOrOverflows := by
  intro nnn s
  refine ⟨decodeWord_call nnn, fun hfree => ?_, fun hfull hrow => ?_, fun hfull hfetch => ?_⟩
  · exact ⟨_, exec_call_of_not_full nnn hfree, rfl, addr_toNat nnn, rfl⟩
  · rw [exec_call_of_full nnn hfull, stackFaultValue_tableRow _ hrow]
    exact haltsWith_takeFault _ _ rfl
  · rw [exec_call_of_full nnn hfull, stackFaultValue_fetchAddress _ hfetch]
    exact haltsWith_takeFault _ _ rfl

/-! ### ADD I -/

section
variable {s : State} {x : RegNum}

theorem exec_addI_of_no_fault (h : ¬ (0xFFFF < s.i.toNat + (s.getV x).toNat ∧ s.params.indexAddOverflow = .fault)) :
    exec (.addI x) s = .next (s.setI (BitVec.ofNat 16 (s.i.toNat + (s.getV x).toNat))) := by
  change execAddI x s = _
  rw [execAddI, if_neg h]
  rfl

theorem exec_addI_of_fault (h : 0xFFFF < s.i.toNat + (s.getV x).toNat ∧ s.params.indexAddOverflow = .fault) :
    exec (.addI x) s =
      .next (takeFault ⟨.indexOverflow, s.i.toNat + (s.getV x).toNat⟩ (s.pc - 2) s) := by
  change execAddI x s = _
  rw [execAddI, if_pos h]
  rfl

end

/-- Settles O25: the build's parameter decides what a sum past 0xFFFF does. -/
theorem addIWrapsOrFaults : Obligations.AddIWrapsOrFaults := by
  intro x s
  refine ⟨decodeWord_addI x, fun h => ?_, fun hpast hfault => ?_⟩
  · have hno : ¬ (0xFFFF < s.i.toNat + (s.getV x).toNat ∧ s.params.indexAddOverflow = .fault) := by
      rintro ⟨hpast, hfault⟩
      rcases h with hfit | hwrap
      · omega
      · exact nomatch hwrap.symm.trans hfault
    exact ⟨_, exec_addI_of_no_fault hno, BitVec.toNat_ofNat _ _, rfl⟩
  · rw [exec_addI_of_fault ⟨hpast, hfault⟩]
    exact haltsWith_takeFault _ _ rfl

end Sys2Proof.Machine

/-!
Drawing (spec 45_display.md R191 to R193, R235).
-/

namespace Sys2Proof.Machine

/-! ### Where a drawing ends -/

/-- The set bits of a sprite row have a cell each, or the drawing of the row ends at one that has none. -/
theorem drawRow_outcome (ox oy row : Nat) (bits : Byte) (cols : List Nat) (d : Display) :
    (∀ col ∈ cols, spriteBit bits col = true → linearIndex ox oy col row < 2048) ∨
    ∃ col ∈ cols, spriteBit bits col = true ∧ 2048 ≤ linearIndex ox oy col row ∧
      drawRow ox oy row bits cols d = .error ⟨.displayOutOfRange, linearIndex ox oy col row⟩ := by
  induction cols generalizing d with
  | nil => exact .inl nofun
  | cons c cols ih =>
    by_cases hc : spriteBit bits c = true → linearIndex ox oy c row < 2048
    · obtain ⟨e, he⟩ : ∃ e, drawRow ox oy row bits (c :: cols) d = drawRow ox oy row bits cols e := by
        by_cases hb : spriteBit bits c = true
        · exact ⟨Display.toggle d ⟨_, hc hb⟩, by simp only [drawRow, hb, if_true, togglePixel_ok d (hc hb)]⟩
        · exact ⟨d, if_neg hb⟩
      rcases ih e with hfit | ⟨col, hcol, hb, hk, herr⟩
      · exact .inl (List.forall_mem_cons.mpr ⟨hc, hfit⟩)
      · exact .inr ⟨col, List.mem_cons_of_mem _ hcol, hb, hk, he.trans herr⟩
    · obtain ⟨hb, hk⟩ := Classical.not_imp.mp hc
      have hk := Nat.le_of_not_lt hk
      exact .inr ⟨c, List.mem_cons_self, hb, hk, drawRow_error (pre := []) d nofun hb hk⟩

/-- What a drawing that ends in the fault `f` met: a row address above 0xFFF, or a set bit that has no cell. -/
def DrawFault (s : State) (ox oy : Nat) (rows : List Nat) (f : Fatal) : Prop :=
  ∃ row ∈ rows, (0xFFF < s.ea row ∧ f = ⟨.memOutOfRange, s.ea row⟩) ∨
    ∃ col ∈ List.range 8, spriteBit (s.byteAt (s.ea row)) col = true ∧ 2048 ≤ linearIndex ox oy col row ∧
      f = ⟨.displayOutOfRange, linearIndex ox oy col row⟩

/-- The rows of a sprite fit, or its drawing ends in a fault. -/
theorem drawRows_outcome (s : State) (ox oy : Nat) (rows : List Nat) (d : Display) :
    (∀ row ∈ rows, rowFits s ox oy row) ∨
      ∃ f, drawRows s ox oy rows d = .error f ∧ DrawFault s ox oy rows f := by
  induction rows generalizing d with
  | nil => exact .inl nofun
  | cons row rows ih =>
    by_cases hread : s.ea row ≤ 0xFFF
    · rcases drawRow_outcome ox oy row (s.byteAt (s.ea row)) (List.range 8) d with hfit | ⟨col, hcol, hb, hk, herr⟩
      · obtain ⟨e, he⟩ := drawRows_append (pre := [row]) (post := rows) d (by simpa using ⟨hread, hfit⟩)
        rcases ih e with hfits | ⟨f, hf, r, hr, hcause⟩
        · exact .inl (List.forall_mem_cons.mpr ⟨⟨hread, hfit⟩, hfits⟩)
        · exact .inr ⟨f, he.trans hf, r, List.mem_cons_of_mem _ hr, hcause⟩
      · exact .inr ⟨_, by simp only [drawRows, memRead_ok hread, herr], row, List.mem_cons_self,
          .inr ⟨col, hcol, hb, hk, rfl⟩⟩
    · have hread : 0xFFF < s.ea row := Nat.lt_of_not_le hread
      exact .inr ⟨_, by simp only [drawRows, memRead_error hread], row, List.mem_cons_self, .inl ⟨hread, rfl⟩⟩

/-- Drawing reads nothing of the state but the memory and `I`. -/
theorem drawRows_congr {s t : State} (hbyte : ∀ a, t.byteAt a = s.byteAt a) (hi : t.i = s.i) (ox oy : Nat)
    (rows : List Nat) (d : Display) : drawRows t ox oy rows d = drawRows s ox oy rows d := by
  have hread (row : Nat) : memRead t (t.ea row) = memRead s (s.ea row) := by
    rw [memRead, memRead, State.ea, State.ea, hi, hbyte]
  induction rows generalizing d with
  | nil => rfl
  | cons row rows ih => simp only [drawRows, hread, ih]

section
variable {x y : RegNum} {n : RowCount} {s : State}

theorem exec_drw_of_ok {d : Display}
    (h : drawRows s (s.getV x).toNat (s.getV y).toNat (List.range n.val) s.disp = .ok d) :
    exec (.drw x y n) s = .next (s.setDisp d) := by
  change execDrw x y n s = _
  rw [execDrw, h]
  rfl

theorem exec_drw_of_error {f : Fatal}
    (h : drawRows s (s.getV x).toNat (s.getV y).toNat (List.range n.val) s.disp = .error f) :
    exec (.drw x y n) s = .next (takeFault f (s.pc - 2) s) := by
  change execDrw x y n s = _
  rw [execDrw, h]
  rfl

end

/-! ### The cells a sprite changes -/

/-- The cell of linear index `k` is that of a set bit of the sprite of `n` rows at `I` (R191, R192). -/
def SpriteCell (s : State) (ox oy n k : Nat) : Prop :=
  ∃ row col, row < n ∧ col < 8 ∧ (s.byteAt (s.i.toNat + row)).getLsbD (7 - col) = true ∧
    (ox + col) + 64 * (oy + row) = k

/-- Rows that fit change exactly the sprite's cells. -/
theorem drawRows_range {s : State} {ox oy n : Nat} (d : Display) (h : ∀ row ∈ List.range n, rowFits s ox oy row) :
    ∃ e, drawRows s ox oy (List.range n) d = .ok e ∧
      ∀ k : Fin 2048, Display.cell e k ≠ Display.cell d k ↔ SpriteCell s ox oy n k.val := by
  obtain ⟨e, he, hcell⟩ := drawRows_ok d List.nodup_range h
  refine ⟨e, he, fun k => (hcell k).trans ?_⟩
  constructor
  · rintro ⟨row, hrow, col, hcol, hb, hk⟩
    exact ⟨row, col, List.mem_range.mp hrow, List.mem_range.mp hcol, hb, hk⟩
  · rintro ⟨row, col, hrow, hcol, hb, hk⟩
    exact ⟨row, List.mem_range.mpr hrow, col, List.mem_range.mpr hcol, hb, hk⟩

/-- The rows of a sprite fit where its row addresses exist and its set bits have a cell each. -/
theorem rowFits_of_lt {s : State} {ox oy n : Nat} (hread : ∀ row, row < n → s.i.toNat + row ≤ 0xFFF)
    (hbits : ∀ row col, row < n → col < 8 → (s.byteAt (s.i.toNat + row)).getLsbD (7 - col) = true →
      (ox + col) + 64 * (oy + row) < 2048) : ∀ row ∈ List.range n, rowFits s ox oy row := by
  intro row hrow
  have hrow := List.mem_range.mp hrow
  exact ⟨hread row hrow, fun col hcol hb => hbits row col hrow (List.mem_range.mp hcol) hb⟩

theorem readPixel_ne_iff (s t : State) (k : Fin 2048) :
    readPixel k.val t ≠ readPixel k.val s ↔ Display.cell t.disp k ≠ Display.cell s.disp k := by
  rw [readPixel_of_lt k.isLt, readPixel_of_lt k.isLt, Ne, Except.ok.injEq]

/-- Settles O29: rows that fit change exactly the sprite's cells, and the instruction writes the display alone. -/
theorem drwTogglesSpriteCells : Obligations.DrwTogglesSpriteCells := by
  refine fun x y n s => ⟨decodeWord_drw x y n, fun hread hbits => ?_⟩
  obtain ⟨e, he, hcell⟩ := drawRows_range s.disp (rowFits_of_lt hread hbits)
  exact ⟨_, exec_drw_of_ok he, rfl, fun k => (readPixel_ne_iff s _ k).trans (hcell k)⟩

/-! ### The first fault of a drawing -/

/-- The first `n` numbers, cut at `r`. -/
theorem range_eq_append_cons {r n : Nat} (h : r < n) : ∃ post, List.range n = List.range r ++ r :: post := by
  obtain ⟨k, rfl⟩ := Nat.exists_eq_add_of_lt h
  rw [Nat.add_assoc, List.range_add, List.range_succ_eq_map]
  exact ⟨_, rfl⟩

/-- Settles O30: the rows before it are drawn, and the read of row `r` is the first fault. -/
theorem drwFaultsOnRowAddress : Obligations.DrwFaultsOnRowAddress := by
  intro x y n s r hr hpast hread hbits
  obtain ⟨post, hrange⟩ := range_eq_append_cons hr
  obtain ⟨e, he⟩ := drawRows_append (post := r :: post) s.disp (rowFits_of_lt hread hbits)
  rw [← hrange] at he
  have herr : drawRows s (s.getV x).toNat (s.getV y).toNat (r :: post) e = .error ⟨.memOutOfRange, s.ea r⟩ := by
    simp only [drawRows, memRead_error (s := s) (a := s.ea r) hpast]
  rw [exec_drw_of_error (he.trans herr)]
  exact haltsWith_takeFault _ _ rfl

/-- Settles O31: the rows before it and the row's earlier bits are drawn, and the bit of column `c` is the first
fault. -/
theorem drwFaultsOnPixelIndex : Obligations.DrwFaultsOnPixelIndex := by
  intro x y n s r c hr hc hread hb hk hbits
  obtain ⟨rows, hrows⟩ := range_eq_append_cons hr
  obtain ⟨cols, hcols⟩ := range_eq_append_cons hc
  obtain ⟨e, he⟩ := drawRows_append (post := r :: rows) s.disp
    (rowFits_of_lt (fun row hrow => hread row (Nat.le_of_lt hrow))
      fun row col hrow hcol => hbits row col (.inl ⟨hrow, hcol⟩))
  rw [← hrows] at he
  have hrow : drawRow (s.getV x).toNat (s.getV y).toNat r (s.byteAt (s.ea r)) (List.range 8) e =
      .error ⟨.displayOutOfRange, linearIndex (s.getV x).toNat (s.getV y).toNat c r⟩ := by
    rw [hcols]
    exact drawRow_error e (fun col hcol => hbits r col (.inr ⟨rfl, List.mem_range.mp hcol⟩)) hb hk
  have herr : drawRows s (s.getV x).toNat (s.getV y).toNat (r :: rows) e =
      .error ⟨.displayOutOfRange, linearIndex (s.getV x).toNat (s.getV y).toNat c r⟩ := by
    simp only [drawRows, memRead_ok (s := s) (a := s.ea r) (hread r (Nat.le_refl r)), hrow]
  rw [exec_drw_of_error (he.trans herr)]
  exact haltsWith_takeFault _ _ rfl

/-! ### Drawing twice -/

/-- Two drawings that change the same cells undo each other. -/
theorem display_eq_of_changed_twice {d e e' : Display}
    (h : ∀ k, Display.cell e' k ≠ Display.cell e k ↔ Display.cell e k ≠ Display.cell d k) : e' = d := by
  refine Display.ext_cells fun k => ?_
  have hk := h k
  cases hd : Display.cell d k <;> cases he : Display.cell e k <;> simpa [hd, he] using hk

/-- Settles O32: the second drawing reads the same sprite and changes the same cells. -/
theorem drwTwiceRestoresDisplay : Obligations.DrwTwiceRestoresDisplay := by
  intro x y n s t hexec hcode hzero
  rcases drawRows_outcome s (s.getV x).toNat (s.getV y).toNat (List.range n.val) s.disp with hfits | ⟨f, hf, -⟩
  · obtain ⟨e, he, hcell⟩ := drawRows_range s.disp hfits
    obtain rfl : s.setDisp e = t := Host.Outcome.next.inj ((exec_drw_of_ok he).symm.trans hexec)
    obtain ⟨e', he', hcell'⟩ := drawRows_range e hfits
    obtain rfl : e' = s.disp := display_eq_of_changed_twice fun k => (hcell' k).trans (hcell k).symm
    exact exec_drw_of_ok ((drawRows_congr (s := s) (t := s.setDisp e) (fun _ => rfl) rfl _ _ _ e).trans he')
  · obtain rfl := Host.Outcome.next.inj ((exec_drw_of_error hf).symm.trans hexec)
    exact absurd (hcode.trans hzero) (faultNumber_ne_zero f.code)

end Sys2Proof.Machine

/-!
What an execute step can do, said once: which piece of state it writes, and for which instruction (spec 10_state.md
R23 to R34), or which fault it raises, and for which cause (60_exceptions.md R231).
-/

namespace Sys2Proof.Machine

/-! ### The writers of the general registers and of `pc` -/

/-- The register `j` is one that R23 lists as written by the instruction. -/
def WritesV (i : Instr) (j : RegNum) : Prop :=
  (∃ x nn, (i = .ldByte x nn ∨ i = .addByte x nn ∨ i = .rnd x nn) ∧ j = x) ∨
  (∃ x y, (i = .ldReg x y ∨ i = .orReg x y ∨ i = .andReg x y ∨ i = .xorReg x y) ∧ j = x) ∨
  (∃ x y, (i = .addReg x y ∨ i = .subReg x y ∨ i = .shr x y ∨ i = .subnReg x y ∨ i = .shl x y) ∧
    (j = x ∨ j = 15)) ∨
  (∃ x, (i = .ldVxDt x ∨ i = .ldVxK x) ∧ j = x) ∨ (∃ x, i = .loadRegs x ∧ j ≤ x)

/-- The instruction is one that R25 lists as a writer of `pc` beside the fetch. -/
def WritesPc (i : Instr) : Prop :=
  i = .ret ∨ (∃ nnn, i = .jp nnn ∨ i = .call nnn ∨ i = .jpV0 nnn) ∨
  (∃ x nn, i = .seByte x nn ∨ i = .sneByte x nn) ∨ (∃ x y, i = .seReg x y ∨ i = .sneReg x y) ∨
  (∃ x, i = .skp x ∨ i = .sknp x ∨ i = .ldVxK x)

/-! ### The two ends of an execute step -/

/-- `Completes s i t`: without a fault, the execute step of `i` from `s` ends in `t`. One constructor per piece of state
that is written. -/
inductive Completes (s : State) (i : Instr) : State → Prop where
  | idle (hi : i = .nop ∨ ∃ w, i = .unrecognised w) : Completes s i s
  | writeV (v : Vector Byte 16) (hi : ∀ j : RegNum, v[j.val] ≠ s.v[j.val] → WritesV i j) :
    Completes s i { s with v := v }
  | writeI (w : Word) (hi : (∃ nnn, i = .ldI nnn) ∨ ∃ x, i = .addI x ∨ i = .ldFont x) :
    Completes s i { s with i := w }
  | jump (w : Word) (hi : WritesPc i) (hw : w.toNat ≤ 0x10FE) : Completes s i { s with pc := w }
  | skip (w : Word) (hi : WritesPc i) (hw : w = s.pc + 2 ∨ w = s.pc) : Completes s i { s with pc := w }
  | wait (hi : ∃ x, i = .ldVxK x) : Completes s i { s with pc := s.pc - 2 }
  | ret (l : List Word) (w : Word) (hi : i = .ret) (hstack : s.stack = l ++ [w]) :
    Completes s i { s with pc := w, stack := l }
  | call (nnn : Addr12) (hi : i = .call nnn) (hfree : s.params.stackCapacity ≠ some s.stack.length) :
    Completes s i { s with pc := addr nnn, stack := s.stack ++ [s.pc] }
  | display (d : Display) (hi : i = .cls ∨ ∃ x y n, i = .drw x y n) : Completes s i { s with disp := d }
  | delay (b : Byte) (hi : ∃ x, i = .ldDtVx x) : Completes s i { s with dt := b }
  | sound (b : Byte) (hi : ∃ x, i = .ldStVx x) : Completes s i { s with st := b }
  | store (a : Nat) (bs : List Byte) (hi : ∃ x, i = .ldBcd x ∨ i = .storeRegs x) (hfit : a + bs.length ≤ 0x1000) :
    Completes s i { s with mem := Memory.writeAll s.resetByte s.mem a bs }

/-- `Faults s i f`: the execute step of `i` from `s` raises the fault `f`. One constructor per instruction that can. -/
inductive Faults (s : State) : Instr → Fatal → Prop where
  | ret (h : s.stack = []) : Faults s .ret ⟨.stackUnderflow, stackFaultValue s 0⟩
  | call (nnn : Addr12) (h : s.params.stackCapacity = some s.stack.length) :
    Faults s (.call nnn) ⟨.stackOverflow, stackFaultValue s s.stack.length⟩
  | ldBcd (x : RegNum) (h : 0xFFF < s.i.toNat + 2) : Faults s (.ldBcd x) ⟨.memOutOfRange, max s.i.toNat 0x1000⟩
  | storeRegs (x : RegNum) (h : 0xFFF < s.i.toNat + x.val) :
    Faults s (.storeRegs x) ⟨.memOutOfRange, max s.i.toNat 0x1000⟩
  | loadRegs (x : RegNum) (h : 0xFFF < s.i.toNat + x.val) :
    Faults s (.loadRegs x) ⟨.memOutOfRange, max s.i.toNat 0x1000⟩
  | drw (x y : RegNum) (n : RowCount) {f : Fatal}
    (h : DrawFault s (s.getV x).toNat (s.getV y).toNat (List.range n.val) f) : Faults s (.drw x y n) f
  | skp (x : RegNum) (h : 15 < (s.getV x).toNat) : Faults s (.skp x) ⟨.keyOutOfRange, (s.getV x).toNat⟩
  | sknp (x : RegNum) (h : 15 < (s.getV x).toNat) : Faults s (.sknp x) ⟨.keyOutOfRange, (s.getV x).toNat⟩
  | addI (x : RegNum) (h : 0xFFFF < s.i.toNat + (s.getV x).toNat ∧ s.params.indexAddOverflow = .fault) :
    Faults s (.addI x) ⟨.indexOverflow, s.i.toNat + (s.getV x).toNat⟩

section
variable {s : State} {i : Instr}

theorem Completes.setV {x : RegNum} (b : Byte) (hx : WritesV i x) : Completes s i (s.setV x b) := by
  refine .writeV _ fun j hj => ?_
  obtain rfl : j = x := by_contra fun hne => hj (State.getV_setV_ne s b hne)
  exact hx

theorem Completes.setV_setV {x y : RegNum} (b c : Byte) (hx : WritesV i x) (hy : WritesV i y) :
    Completes s i ((s.setV x b).setV y c) := by
  refine .writeV _ fun j hj => ?_
  by_cases hjy : j = y
  · exact hjy ▸ hy
  · obtain rfl : j = x := by_contra fun hjx =>
      hj ((State.getV_setV_ne (s.setV x b) c hjy).trans (State.getV_setV_ne s b hjx))
    exact hx

theorem Completes.skipIf (c : Bool) (hi : WritesPc i) : Completes s i (skipIf c s) := by
  rw [skipIf_eq]
  exact .skip _ hi (ite_eq_or_eq _ _ _)

/-! ### Instructions that can fault -/

theorem complete_storeBytes_fits {a : Nat} {bs : List Byte} (h : a + bs.length ≤ 0x1000) :
    complete s (storeBytes a bs s) = .next { s with mem := Memory.writeAll s.resetByte s.mem a bs } := by
  rw [storeBytes_ok h, complete_ok]

theorem complete_storeBytes_past {a : Nat} {bs : List Byte} (h : 0x1000 < a + bs.length) (hne : bs ≠ []) :
    complete s (storeBytes a bs s) = .next (takeFault ⟨.memOutOfRange, max a 0x1000⟩ (s.pc - 2) s) := by
  rw [storeBytes_error h hne]
  rfl

theorem exec_loadRegs_past {x : RegNum} (h : 0xFFF < s.i.toNat + x.val) :
    exec (.loadRegs x) s = .next (takeFault ⟨.memOutOfRange, max s.i.toNat 0x1000⟩ (s.pc - 2) s) := by
  change execLoadRegs x s = _
  rw [execLoadRegs, readBytes_error (by rw [State.ea]; omega) (by omega)]
  rfl

end

/-- An execute step ends in a next state: it completes, or the fault it raises is taken. -/
theorem exec_outcome (i : Instr) (s : State) :
    (∃ t, exec i s = .next t ∧ Completes s i t) ∨
      ∃ f, exec i s = .next (takeFault f (s.pc - 2) s) ∧ Faults s i f := by
  cases i with
  | nop | unrecognised => exact .inl ⟨_, rfl, .idle (by simp)⟩
  | ldByte x | addByte x | rnd x | ldReg x | orReg x | andReg x | xorReg x | ldVxDt x =>
    exact .inl ⟨_, rfl, .setV _ (by simp [WritesV])⟩
  | addReg x | subReg x | subnReg x | shr x | shl x =>
    exact .inl ⟨_, rfl, .setV_setV _ _ (by simp [WritesV, vf]) (by simp [WritesV, vf])⟩
  | ldI | ldFont => exact .inl ⟨_, rfl, .writeI _ (by simp)⟩
  | jp nnn => exact .inl ⟨_, rfl, .jump _ (by simp [WritesPc]) (by rw [addr_toNat]; omega)⟩
  | jpV0 nnn => exact .inl ⟨_, rfl, .jump _ (by simp [WritesPc]) (by rw [addr_add_byte_toNat]; omega)⟩
  | seByte | sneByte | seReg | sneReg => exact .inl ⟨_, rfl, .skipIf _ (by simp [WritesPc])⟩
  | cls => exact .inl ⟨_, rfl, .display _ (by simp)⟩
  | ldDtVx => exact .inl ⟨_, rfl, .delay _ (by simp)⟩
  | ldStVx => exact .inl ⟨_, rfl, .sound _ (by simp)⟩
  | ldVxK x =>
    cases hheld : s.firstHeld with
    | some k => exact .inl ⟨_, exec_ldVxK_of_held hheld, .setV _ (by simp [WritesV])⟩
    | none => exact .inl ⟨_, exec_ldVxK_of_none_held hheld, .wait (by simp)⟩
  | ret =>
    rcases s.stack.eq_nil_or_concat' with hempty | ⟨l, w, htop⟩
    · exact .inr ⟨_, exec_ret_of_empty hempty, .ret hempty⟩
    · exact .inl ⟨_, exec_ret_of_top htop, .ret l w rfl htop⟩
  | call nnn =>
    by_cases hfull : s.params.stackCapacity = some s.stack.length
    · exact .inr ⟨_, exec_call_of_full nnn hfull, .call nnn hfull⟩
    · exact .inl ⟨_, exec_call_of_not_full nnn hfull, .call nnn rfl hfull⟩
  | skp x =>
    by_cases hkey : (s.getV x).toNat < 16
    · exact .inl ⟨_, exec_skp_of_key (k := ⟨_, hkey⟩) rfl, .skip _ (by simp [WritesPc]) (ite_eq_or_eq _ _ _)⟩
    · have hkey : 15 < (s.getV x).toNat := by omega
      exact .inr ⟨_, exec_skp_of_no_key hkey, .skp x hkey⟩
  | sknp x =>
    by_cases hkey : (s.getV x).toNat < 16
    · exact .inl ⟨_, exec_sknp_of_key (k := ⟨_, hkey⟩) rfl,
        .skip _ (by simp [WritesPc]) (ite_eq_or_eq _ _ _).symm⟩
    · have hkey : 15 < (s.getV x).toNat := by omega
      exact .inr ⟨_, exec_sknp_of_no_key hkey, .sknp x hkey⟩
  | addI x =>
    by_cases h : 0xFFFF < s.i.toNat + (s.getV x).toNat ∧ s.params.indexAddOverflow = .fault
    · exact .inr ⟨_, exec_addI_of_fault h, .addI x h⟩
    · exact .inl ⟨_, exec_addI_of_no_fault h, .writeI _ (by simp)⟩
  | ldBcd x =>
    have hlen := bcdDigits_length (s.getV x)
    rw [exec_ldBcd]
    by_cases hfit : s.i.toNat + 2 ≤ 0xFFF
    · exact .inl ⟨_, complete_storeBytes_fits (by omega), .store _ _ (by simp) (by omega)⟩
    · exact .inr ⟨_, complete_storeBytes_past (by omega) nofun, .ldBcd x (by omega)⟩
  | storeRegs x =>
    have hlen := s.regsUpTo_length x
    rw [exec_storeRegs]
    by_cases hfit : s.i.toNat + x.val ≤ 0xFFF
    · exact .inl ⟨_, complete_storeBytes_fits (by omega), .store _ _ (by simp) (by omega)⟩
    · exact .inr ⟨_, complete_storeBytes_past (by omega) (List.ne_nil_of_length_eq_add_one hlen),
        .storeRegs x (by omega)⟩
  | loadRegs x =>
    by_cases hfit : s.i.toNat + x.val ≤ 0xFFF
    · refine .inl ⟨_, exec_loadRegs_ok hfit, .writeV _ fun j hj => ?_⟩
      have hjx : j ≤ x := by
        by_contra hlt
        exact hj ((getElem_loadV_map_range _ _ s.v j).trans (if_neg (mt Nat.le_of_lt_succ hlt)))
      simp [WritesV, hjx]
    · have hpast := Nat.lt_of_not_le hfit
      exact .inr ⟨_, exec_loadRegs_past hpast, .loadRegs x hpast⟩
  | drw x y n =>
    rcases drawRows_outcome s (s.getV x).toNat (s.getV y).toNat (List.range n.val) s.disp with
      hfits | ⟨f, hf, hcause⟩
    · obtain ⟨e, he, -⟩ := drawRows_range s.disp hfits
      exact .inl ⟨_, exec_drw_of_ok he, .display _ (by simp)⟩
    · exact .inr ⟨f, exec_drw_of_error hf, .drw x y n hcause⟩

end Sys2Proof.Machine

/-!
What an execute step leaves unchanged, and for which causes it faults (spec 10_state.md R23 to R37; 60_exceptions.md
R231).
-/

namespace Sys2Proof.Machine

section
variable {s t : State} {i : Instr}

/-- What no instruction that completes writes. -/
theorem Completes.frame (h : Completes s i t) :
    t.cadence = s.cadence ∧ t.keys = s.keys ∧ t.faultCode = s.faultCode ∧ t.faultPc = s.faultPc ∧
      t.faultInfo = s.faultInfo ∧ t.params = s.params := by
  cases h <;> exact ⟨rfl, rfl, rfl, rfl, rfl, rfl⟩

/-- A next state of an execute step that records no fault is one the step completes in. -/
theorem completes_of_exec (hexec : exec i s = .next t) (ht : t.faultCode = 0) : Completes s i t := by
  rcases exec_outcome i s with ⟨u, hu, hc⟩ | ⟨f, hf, -⟩
  · exact Host.Outcome.next.inj (hu.symm.trans hexec) ▸ hc
  · obtain rfl := Host.Outcome.next.inj (hf.symm.trans hexec)
    exact absurd ht (faultNumber_ne_zero f.code)

/-- A fault that the execute step of a running core records is one it raises. -/
theorem faults_of_exec (hs : s.faultCode = 0) (hexec : exec i s = .next t) (ht : t.faultCode ≠ 0) :
    ∃ f, t.faultCode = faultNumber f.code ∧ Faults s i f := by
  rcases exec_outcome i s with ⟨u, hu, hc⟩ | ⟨f, hf, hcause⟩
  · obtain rfl := Host.Outcome.next.inj (hu.symm.trans hexec)
    obtain ⟨-, -, hcode, -⟩ := hc.frame
    exact absurd (hcode.trans hs) ht
  · obtain rfl := Host.Outcome.next.inj (hf.symm.trans hexec)
    exact ⟨f, rfl, hcause⟩

end

/-! ### The writers of each piece of state -/

/-- Settles O52: of the ends of an execute step only `writeV` writes a register, and it names the writer. -/
theorem onlyListedInstructionsWriteV : Obligations.OnlyListedInstructionsWriteV := by
  intro i s t j _ hexec ht hne
  cases completes_of_exec hexec ht with
  | writeV v hi => exact hi j hne
  | _ => exact absurd rfl hne

/-- Settles O53: each piece of state is written by one or two of the ends of an execute step, and they name the
writers. -/
theorem onlyListedInstructionsWriteSpecialState : Obligations.OnlyListedInstructionsWriteSpecialState := by
  intro i s t _ hexec ht
  have hc := completes_of_exec hexec ht
  obtain ⟨hcadence, hkeys, -, hfaultPc, hfaultInfo, -⟩ := hc.frame
  refine ⟨fun hne => ?_, fun hne => ?_, fun hne => ?_, fun hne => ?_, fun hne => ?_, fun hne => ?_,
    hcadence, hkeys, hfaultPc, hfaultInfo⟩
  · cases hc with
    | writeI w hi => exact hi
    | _ => exact absurd rfl hne
  · cases hc with
    | ret l w hi => exact .inl hi
    | call nnn hi => exact .inr ⟨nnn, hi⟩
    | _ => exact absurd rfl hne
  · cases hc with
    | display d hi => exact hi
    | _ => exact absurd rfl hne
  · cases hc with
    | delay b hi => exact hi
    | _ => exact absurd rfl hne
  · cases hc with
    | sound b hi => exact hi
    | _ => exact absurd rfl hne
  · cases hc with
    | store a bs hi => exact hi
    | _ => exact absurd rfl hne

/-- Settles O54: the ends of an execute step that write `pc` name the writer. -/
theorem onlyListedInstructionsWritePc : Obligations.OnlyListedInstructionsWritePc := by
  intro i s t _ hexec ht hne
  cases completes_of_exec hexec ht with
  | jump w hi => exact hi
  | skip w hi => exact hi
  | wait hi =>
    obtain ⟨x, hi⟩ := hi
    exact .inr (.inr (.inr (.inr ⟨x, .inr (.inr hi)⟩)))
  | ret l w hi => exact .inl hi
  | call nnn hi => exact .inr (.inl ⟨nnn, .inr (.inl hi)⟩)
  | _ => exact absurd rfl hne

/-! ### The causes of a fault -/

/-- Settles O38: each constructor of `Faults` is a cause of R231 with its code. -/
theorem faultsOnlyForListedCauses : Obligations.FaultsOnlyForListedCauses := by
  intro i s t hs hexec ht
  obtain ⟨f, hcode, hcause⟩ := faults_of_exec hs hexec ht
  rw [hcode]
  cases hcause with
  | ret h => exact .inl ⟨rfl, rfl, h⟩
  | call nnn h => exact .inr (.inl ⟨rfl, ⟨nnn, rfl⟩, h⟩)
  | ldBcd x h => exact .inr (.inr (.inl ⟨rfl, .inl ⟨x, rfl, h⟩⟩))
  | storeRegs x h => exact .inr (.inr (.inl ⟨rfl, .inr (.inl ⟨x, .inl rfl, h⟩)⟩))
  | loadRegs x h => exact .inr (.inr (.inl ⟨rfl, .inr (.inl ⟨x, .inr rfl, h⟩)⟩))
  | drw x y n h =>
    obtain ⟨row, hrow, ⟨hpast, rfl⟩ | ⟨col, hcol, hb, hk, rfl⟩⟩ := h
    · have hrow := List.mem_range.mp hrow
      have hlast : 0xFFF < s.i.toNat + (n.val - 1) := by rw [State.ea] at hpast; omega
      exact .inr (.inr (.inl ⟨rfl, .inr (.inr ⟨x, y, n, rfl, hlast⟩)⟩))
    · exact .inr (.inr (.inr (.inl
        ⟨rfl, x, y, n, row, col, rfl, List.mem_range.mp hrow, List.mem_range.mp hcol, hb, hk⟩)))
  | skp x h => exact .inr (.inr (.inr (.inr (.inl ⟨rfl, x, .inl rfl, h⟩))))
  | sknp x h => exact .inr (.inr (.inr (.inr (.inl ⟨rfl, x, .inr rfl, h⟩))))
  | addI x h => exact .inr (.inr (.inr (.inr (.inr ⟨rfl, x, rfl, h⟩))))

/-! ### The sound timer and the cadence -/

/-- The state with another sound timer and another cadence count. -/
def State.withSound (s : State) (b : Byte) (c : Fin 10) : State := { s with st := b, cadence := c }

/-- The first outcome is a next state, and the second is that state but for ST and CADENCE. -/
def DiffersInSound (o p : Result) : Prop := ∃ t b c, o = .next t ∧ p = .next (t.withSound b c)

section
variable (s : State) (b : Byte) (c : Fin 10)

/-- Two outcomes in which the same fault is taken: nothing is left of the two registers. -/
theorem differsInSound_of_takeFault {o p : Result} {f : Fatal} {a : Word} (ho : o = .next (takeFault f a s))
    (hp : p = .next (takeFault f a (s.withSound b c))) : DiffersInSound o p :=
  ⟨takeFault f a s, _, _, ho, hp⟩

theorem complete_storeBytes_differsInSound (a : Nat) {bs : List Byte} (hne : bs ≠ []) :
    DiffersInSound (complete s (storeBytes a bs s))
      (complete (s.withSound b c) (storeBytes a bs (s.withSound b c))) := by
  by_cases hfit : a + bs.length ≤ 0x1000
  · exact ⟨_, b, c, complete_storeBytes_fits hfit, complete_storeBytes_fits hfit⟩
  · have hpast := Nat.lt_of_not_le hfit
    exact differsInSound_of_takeFault s b c (complete_storeBytes_past hpast hne) (complete_storeBytes_past hpast hne)

/-- Each meaning reads neither ST nor CADENCE: it is the same write, or the same fault, in both states. -/
theorem exec_differsInSound (i : Instr) : DiffersInSound (exec i s) (exec i (s.withSound b c)) := by
  cases i with
  | nop | cls | jp | jpV0 | unrecognised | ldByte | addByte | ldReg | orReg | andReg | xorReg | addReg | subReg
  | shr | subnReg | shl | rnd | ldI | ldFont | ldVxDt | ldDtVx => exact ⟨_, b, c, rfl, rfl⟩
  | ldStVx x => exact ⟨_, s.getV x, c, rfl, rfl⟩
  | seByte x nn => exact ⟨_, b, c, exec_seByte x nn s, exec_seByte x nn _⟩
  | sneByte x nn => exact ⟨_, b, c, exec_sneByte x nn s, exec_sneByte x nn _⟩
  | seReg x y => exact ⟨_, b, c, exec_seByte x _ s, exec_seByte x _ _⟩
  | sneReg x y => exact ⟨_, b, c, exec_sneByte x _ s, exec_sneByte x _ _⟩
  | skp x =>
    by_cases hkey : (s.getV x).toNat < 16
    · exact ⟨_, b, c, exec_skp_of_key (k := ⟨_, hkey⟩) rfl,
        exec_skp_of_key (s := s.withSound b c) (k := ⟨_, hkey⟩) rfl⟩
    · have hkey : 15 < (s.getV x).toNat := by omega
      exact differsInSound_of_takeFault s b c (exec_skp_of_no_key hkey) (exec_skp_of_no_key hkey)
  | sknp x =>
    by_cases hkey : (s.getV x).toNat < 16
    · exact ⟨_, b, c, exec_sknp_of_key (k := ⟨_, hkey⟩) rfl,
        exec_sknp_of_key (s := s.withSound b c) (k := ⟨_, hkey⟩) rfl⟩
    · have hkey : 15 < (s.getV x).toNat := by omega
      exact differsInSound_of_takeFault s b c (exec_sknp_of_no_key hkey) (exec_sknp_of_no_key hkey)
  | ldVxK x =>
    cases hheld : s.firstHeld with
    | some k => exact ⟨_, b, c, exec_ldVxK_of_held hheld, exec_ldVxK_of_held hheld⟩
    | none => exact ⟨_, b, c, exec_ldVxK_of_none_held hheld, exec_ldVxK_of_none_held hheld⟩
  | ret =>
    rcases s.stack.eq_nil_or_concat' with hempty | ⟨l, w, htop⟩
    · exact differsInSound_of_takeFault s b c (exec_ret_of_empty hempty) (exec_ret_of_empty hempty)
    · exact ⟨_, b, c, exec_ret_of_top htop, exec_ret_of_top htop⟩
  | call nnn =>
    by_cases hfull : s.params.stackCapacity = some s.stack.length
    · exact differsInSound_of_takeFault s b c (exec_call_of_full nnn hfull) (exec_call_of_full nnn hfull)
    · exact ⟨_, b, c, exec_call_of_not_full nnn hfull, exec_call_of_not_full nnn hfull⟩
  | addI x =>
    by_cases h : 0xFFFF < s.i.toNat + (s.getV x).toNat ∧ s.params.indexAddOverflow = .fault
    · exact differsInSound_of_takeFault s b c (exec_addI_of_fault h) (exec_addI_of_fault h)
    · exact ⟨_, b, c, exec_addI_of_no_fault h, exec_addI_of_no_fault h⟩
  | ldBcd x => exact complete_storeBytes_differsInSound s b c _ nofun
  | storeRegs x =>
    exact complete_storeBytes_differsInSound s b c _ (List.ne_nil_of_length_eq_add_one (s.regsUpTo_length x))
  | loadRegs x =>
    by_cases hfit : s.i.toNat + x.val ≤ 0xFFF
    · exact ⟨_, b, c, exec_loadRegs_ok hfit, exec_loadRegs_ok hfit⟩
    · have hpast := Nat.lt_of_not_le hfit
      exact differsInSound_of_takeFault s b c (exec_loadRegs_past hpast) (exec_loadRegs_past hpast)
  | drw x y n =>
    have hsame := drawRows_congr (s := s) (t := s.withSound b c) (fun _ => rfl) rfl
      (s.getV x).toNat (s.getV y).toNat (List.range n.val) s.disp
    cases hdraw : drawRows s (s.getV x).toNat (s.getV y).toNat (List.range n.val) s.disp with
    | ok d => exact ⟨_, b, c, exec_drw_of_ok hdraw, exec_drw_of_ok (hsame.trans hdraw)⟩
    | error f =>
      exact differsInSound_of_takeFault s b c (exec_drw_of_error hdraw) (exec_drw_of_error (hsame.trans hdraw))

end

/-- Settles O55: the second step ends in the first one's state but for ST and CADENCE. -/
theorem soundTimerAndCadenceAreNeverRead : Obligations.SoundTimerAndCadenceAreNeverRead := by
  intro i s b c
  obtain ⟨t, b', c', ht, hu⟩ := exec_differsInSound s b c i
  exact ⟨t, t.withSound b' c', ht, hu, rfl, rfl, fun _ => rfl⟩

end Sys2Proof.Machine

/-!
What a cycle and a host action can do, and what they keep: the invariant, KEYS, the parameters, the bound on `pc`
(spec 10_state.md R26, R29, R31; 60_exceptions.md R230, R233, R255).
-/

namespace Sys2Proof.Machine

/-! ### The two ends of a cycle -/

/-- The timer tick writes DT, ST and CADENCE alone. -/
theorem timerTick_eq (s : State) :
    timerTick s = { s with
      dt := (timerTick s).dt, st := (timerTick s).st, cadence := (timerTick s).cadence } := by
  rcases timerTick_cases s with ⟨_, h⟩ | ⟨_, h⟩ <;> rw [h] <;> rfl

/-- The halted state of a fault is the result of its cycle as it is (R77). -/
theorem closeCycle_next_halted {t : State} (h : t.running = false) : closeCycle (.next t) = .next t := by
  rw [closeCycle, endCycle, h, if_neg Bool.false_ne_true]

/-- A cycle of a running core takes a fault, or it fetches an instruction that completes from the state with `pc`
advanced, and ticks. -/
theorem stepWith_outcome {s : State} (rand : Byte) (hrun : s.running = true) :
    (∃ f a u, stepWith rand s = .next (takeFault f a u) ∧ u.keys = s.keys ∧ u.params = s.params) ∨
    ∃ i t, s.pc.toNat + 1 ≤ 0xFFF ∧ Completes (advance (beginCycle rand s)) i t ∧
      stepWith rand s = .next (timerTick t) := by
  by_cases hpc : s.pc.toNat + 1 ≤ 0xFFF
  · rw [stepWith_fetched rand hrun hpc]
    rcases exec_outcome (decode (s.byteAt s.pc.toNat) (s.byteAt (s.pc.toNat + 1))) (advance (beginCycle rand s)) with
      ⟨t, ht, hc⟩ | ⟨f, hf, -⟩
    · obtain ⟨-, -, hcode, -⟩ := hc.frame
      have htrun : t.running = true := by rwa [State.running, hcode]
      exact .inr ⟨_, t, hpc, hc, by rw [ht, closeCycle_next_running htrun]⟩
    · refine .inl ⟨f, s.pc + 2 - 2, advance (beginCycle rand s), ?_, rfl, rfl⟩
      rw [hf, closeCycle_next_halted (takeFault_running ..)]
      rfl
  · have hpc : 0xFFF < s.pc.toNat + 1 := Nat.lt_of_not_le hpc
    exact .inl ⟨_, _, beginCycle rand s,
      by rw [stepWith_running rand hrun, runCycle_fetch_error (s := beginCycle rand s) hpc], rfl, rfl⟩

theorem stepWith_total (rand : Byte) (s : State) : ∃ t, stepWith rand s = .next t := by
  cases hrun : s.running with
  | false => exact ⟨s, stepWith_halted rand hrun⟩
  | true =>
    rcases stepWith_outcome rand hrun with ⟨f, a, u, h, -⟩ | ⟨i, t, -, -, h⟩
    · exact ⟨_, h⟩
    · exact ⟨_, h⟩

/-- Settles O39: a halted core keeps its state, and each end of a cycle is a next state. -/
theorem everyStepAnswersANextState : Obligations.EveryStepAnswersANextState := fun rand s =>
  ⟨stepWith_total rand s, stepWith_total _ s⟩

/-! ### KEYS and the parameters -/

/-- No cycle writes KEYS or the build's parameters. -/
theorem stepWith_keys_params {rand : Byte} {s t : State} (h : stepWith rand s = .next t) :
    t.keys = s.keys ∧ t.params = s.params := by
  cases hrun : s.running with
  | false =>
    obtain rfl := Host.Outcome.next.inj ((stepWith_halted rand hrun).symm.trans h)
    exact ⟨rfl, rfl⟩
  | true =>
    rcases stepWith_outcome rand hrun with ⟨f, a, u, hf, hkeys, hparams⟩ | ⟨i, u, -, hc, hu⟩
    · obtain rfl := Host.Outcome.next.inj (hf.symm.trans h)
      exact ⟨hkeys, hparams⟩
    · obtain rfl := Host.Outcome.next.inj (hu.symm.trans h)
      obtain ⟨-, hkeys, -, -, -, hparams⟩ := hc.frame
      rw [timerTick_eq]
      exact ⟨hkeys, hparams⟩

theorem exec_keys {i : Instr} {s t : State} (h : exec i s = .next t) : t.keys = s.keys := by
  rcases exec_outcome i s with ⟨u, hu, hc⟩ | ⟨f, hf, -⟩
  · obtain rfl := Host.Outcome.next.inj (hu.symm.trans h)
    obtain ⟨-, hkeys, -⟩ := hc.frame
    exact hkeys
  · obtain rfl := Host.Outcome.next.inj (hf.symm.trans h)
    exact takeFault_keys f _ s

/-- Settles O46: no end of an execute step or of a cycle writes KEYS, and a taken fault keeps them. -/
theorem onlyTheHostWritesKeys : Obligations.OnlyTheHostWritesKeys :=
  ⟨fun _ _ => rfl, fun _ _ _ h => exec_keys h, fun _ _ _ h => (stepWith_keys_params h).1⟩

theorem resetWith_params (image : List Byte) (s : State) : (resetWith image s).params = s.params := by
  unfold resetWith
  split <;> rfl

/-- Settles O57: a reset keeps the parameters it was given, and no end of a cycle writes them. -/
theorem parametersNeverChange : Obligations.ParametersNeverChange := by
  intro a s t h
  cases a with
  | reset image =>
    obtain rfl : resetWith image s = t := Host.Outcome.next.inj h
    exact resetWith_params image s
  | step rand => exact (stepWith_keys_params h).2
  | setKeys k16 =>
    obtain rfl : setKeys k16 s = t := Host.Outcome.next.inj h
    rfl

/-! ### What an instruction that completes keeps -/

theorem State.stackFits_iff (s : State) :
    s.stackFits = true ↔ ∀ cap, s.params.stackCapacity = some cap → s.stack.length ≤ cap := by
  unfold State.stackFits
  cases s.params.stackCapacity <;> simp

/-- An address of the memory advances by 2 without a wrap. -/
theorem pc_add_two_toNat {w : Word} (h : w.toNat ≤ 0x1000) : (w + 2).toNat = w.toNat + 2 := by
  have htwo : (2 : Word).toNat = 2 := rfl
  rw [BitVec.toNat_add, htwo]
  omega

theorem pc_sub_two_toNat {w : Word} (h : 2 ≤ w.toNat) : (w - 2).toNat = w.toNat - 2 :=
  BitVec.toNat_sub_of_le h

section
variable {s t : State} {i : Instr}

theorem Completes.memWf (h : Completes s i t) (hwf : s.memWf = true) : t.memWf = true := by
  cases h with
  | store a bs hi hfit => exact Memory.writeAll_wf bs hwf hfit
  | _ => exact hwf

/-- A call that is not refused leaves a stack within the capacity (R29). -/
theorem Completes.stackFits (h : Completes s i t) (hfits : s.stackFits = true) : t.stackFits = true := by
  rw [State.stackFits_iff] at hfits ⊢
  cases h with
  | ret l w hi htop =>
    intro cap hcap
    have hle := hfits cap hcap
    rw [htop, List.length_append] at hle
    exact Nat.le_of_add_right_le hle
  | call nnn hi hfree =>
    intro cap hcap
    have hne : s.stack.length ≠ cap := fun heq => hfree (hcap.trans (congrArg some heq.symm))
    exact (List.length_append ..).trans_le (Nat.lt_of_le_of_ne (hfits cap hcap) hne)
  | _ => exact hfits

/-- Every return address is the address after a call that was fetched (R29). -/
theorem Completes.stack_le (h : Completes s i t) (hpc : s.pc.toNat ≤ 0x1000)
    (hstack : ∀ w ∈ s.stack, w.toNat ≤ 0x1000) : ∀ w ∈ t.stack, w.toNat ≤ 0x1000 := by
  cases h with
  | ret l w hi htop =>
    rw [htop] at hstack
    exact fun v hv => hstack v (List.mem_append_left _ hv)
  | call nnn hi hfree =>
    intro w hw
    rcases List.mem_append.mp hw with hw | hw
    · exact hstack w hw
    · rwa [List.mem_singleton.mp hw]
  | _ => exact hstack

/-- From an advanced `pc` no instruction leads beyond the highest target of `Bnnn` (R26). -/
theorem Completes.pc_le (h : Completes s i t) (hlow : 2 ≤ s.pc.toNat) (hpc : s.pc.toNat ≤ 0x1000)
    (hstack : ∀ w ∈ s.stack, w.toNat ≤ 0x1000) : t.pc.toNat ≤ 0x10FE := by
  cases h with
  | jump w hi hw => exact hw
  | skip w hi hw =>
    rcases hw with rfl | rfl
    · change (s.pc + 2).toNat ≤ 0x10FE
      rw [pc_add_two_toNat hpc]
      omega
    · exact hpc.trans (by decide)
  | wait hi =>
    change (s.pc - 2).toNat ≤ 0x10FE
    rw [pc_sub_two_toNat hlow]
    omega
  | ret l w hi htop =>
    have hw := hstack w (by rw [htop]; exact List.mem_append_right _ (List.mem_singleton_self w))
    exact hw.trans (by decide)
  | call nnn hi hfree =>
    change (addr nnn).toNat ≤ 0x10FE
    rw [addr_toNat]
    omega
  | _ => exact hpc.trans (by decide)

end

/-! ### The bound on `pc` -/

/-- What an instruction that completes after a fetch leaves in `pc` and on the stack. -/
theorem Completes.pc_stack_le {rand : Byte} {s t : State} {i : Instr} (h : Completes (advance (beginCycle rand s)) i t)
    (hpc : s.pc.toNat + 1 ≤ 0xFFF) (hstack : ∀ w ∈ s.stack, w.toNat ≤ 0x1000) :
    t.pc.toNat ≤ 0x10FE ∧ ∀ w ∈ t.stack, w.toNat ≤ 0x1000 := by
  have hadv : (advance (beginCycle rand s)).pc.toNat = s.pc.toNat + 2 := pc_add_two_toNat (w := s.pc) (by omega)
  exact ⟨h.pc_le (by omega) (by omega) hstack, h.stack_le (by omega) hstack⟩

/-- Settles O51: a cycle without a fault fetched an instruction that completes from an advanced `pc`. -/
theorem pcStaysAtMost10FE : Obligations.PcStaysAtMost10FE := by
  intro rand s t hrun hstack h hcode
  rcases stepWith_outcome rand hrun with ⟨f, a, u, hf, -⟩ | ⟨i, u, hpc, hc, hu⟩
  · obtain rfl := Host.Outcome.next.inj (hf.symm.trans h)
    exact absurd hcode (faultNumber_ne_zero f.code)
  · obtain rfl := Host.Outcome.next.inj (hu.symm.trans h)
    rw [timerTick_eq]
    exact hc.pc_stack_le hpc hstack

/-! ### The invariant -/

theorem State.runningInv_iff (s : State) : s.runningInv = true ↔
    s.pc.toNat ≤ 0x10FE ∧ (∀ w ∈ s.stack, w.toNat ≤ 0x1000) ∧ s.stackFits = true ∧ s.faultPc = 0 ∧
      s.faultInfo = 0 := by
  simp [State.runningInv, and_assoc]

/-- A taken fault leaves a memory in canonical form, a code of R231 and a halted core. -/
theorem inv_takeFault (f : Fatal) (a : Word) (s : State) : (takeFault f a s).Inv :=
  ⟨takeFault_memWf f a s, faultNumber_le f.code, fun hrun => by simp at hrun⟩

theorem inv_timerTick {s : State} (h : s.Inv) : (timerTick s).Inv := by
  rw [timerTick_eq]
  exact h

/-- An instruction that completes after a fetch keeps the invariant. -/
theorem Completes.inv {rand : Byte} {s t : State} {i : Instr} (h : Completes (advance (beginCycle rand s)) i t)
    (hrun : s.running = true) (hpc : s.pc.toNat + 1 ≤ 0xFFF) (hinv : s.Inv) : t.Inv := by
  obtain ⟨hwf, hle, hrunning⟩ := hinv
  obtain ⟨-, hstack, hfits, hfaultPc, hfaultInfo⟩ := s.runningInv_iff.mp (hrunning hrun)
  obtain ⟨hpc', hstack'⟩ := h.pc_stack_le hpc hstack
  obtain ⟨-, -, hcode, htpc, htinfo, -⟩ := h.frame
  refine ⟨h.memWf hwf, hcode ▸ hle, fun _ => t.runningInv_iff.mpr ?_⟩
  exact ⟨hpc', hstack', h.stackFits hfits, htpc.trans hfaultPc, htinfo.trans hfaultInfo⟩

theorem stepWith_keeps_inv {rand : Byte} {s t : State} (hinv : s.Inv) (h : stepWith rand s = .next t) : t.Inv := by
  cases hrun : s.running with
  | false => exact Host.Outcome.next.inj ((stepWith_halted rand hrun).symm.trans h) ▸ hinv
  | true =>
    rcases stepWith_outcome rand hrun with ⟨f, a, u, hf, -⟩ | ⟨i, u, hpc, hc, hu⟩
    · exact Host.Outcome.next.inj (hf.symm.trans h) ▸ inv_takeFault f a u
    · exact Host.Outcome.next.inj (hu.symm.trans h) ▸ inv_timerTick (hc.inv hrun hpc hinv)

/-- Settles O49: a step is a step with the free random byte. -/
theorem stepKeepsInvariant : Obligations.StepKeepsInvariant := fun _ _ => stepWith_keeps_inv

end Sys2Proof.Machine

/-!
Reset, the host's ports, and the statements of single cycles, ticks and memories (spec 20_memory.md R60, R67;
45_display.md R194; 60_exceptions.md R233, R250, R252; 70_reset_and_hazards.md R270, R272).
-/

namespace Sys2Proof.Machine

/-! ### Reset -/

section
variable {image : List Byte} {s : State}

theorem resetWith_of_fits (h : image.length ≤ 3584) : resetWith image s =
    { State.reset with mem := loadedMem s.params image, params := s.params, rand := s.rand, freeIx := s.freeIx } :=
  if_neg (Nat.not_lt.mpr h)

theorem resetWith_of_too_long (h : 3584 < image.length) :
    resetWith image s = takeFault ⟨.programTooLarge, image.length⟩ 0 s := if_pos h

theorem loadedMem_wf (params : Config.Params) (h : image.length ≤ 3584) :
    Memory.wf (Config.resetByte params.font) (loadedMem params image) = true :=
  Memory.writeAll_wf image rfl (by rw [Config.progBase, Config.memSize]; omega)

/-- A byte of the memory a reset leaves: the image's from 0x200 on, else the reset contents. -/
theorem read_loadedMem (params : Config.Params) (h : image.length ≤ 3584) (a : Nat) :
    Memory.read (Config.resetByte params.font) (loadedMem params image) a =
      if 0x200 ≤ a then image.getD (a - 0x200) (Config.resetByte params.font a)
      else Config.resetByte params.font a :=
  Memory.read_writeAll image a rfl (by rw [Config.progBase, Config.memSize]; omega)

end

theorem resetByte_font (font : Vector Byte 80) (a : Fin 80) : Config.resetByte font a.val = font[a.val] :=
  dif_pos a.isLt

theorem resetByte_zero (font : Vector Byte 80) {a : Nat} (h : 80 ≤ a) : Config.resetByte font a = 0 :=
  dif_neg (Nat.not_lt.mpr h)

/-- Settles O43: the image is read from 0x200 on, and everywhere else the reset contents. -/
theorem resetLoadsImage : Obligations.ResetLoadsImage := by
  intro image s t hlen h
  obtain rfl := Host.Outcome.next.inj h
  rw [resetWith_of_fits hlen]
  have hread := read_loadedMem s.params hlen
  refine ⟨fun a => ?_, fun a hlow hhigh => ?_, fun k hk => ?_, fun a hlow hhigh => ?_, rfl, fun x => ?_, rfl, rfl,
    fun k hk => ?_, fun k => ?_, rfl, rfl, rfl, rfl, rfl, rfl⟩
  · exact (hread a.val).trans ((if_neg (by omega)).trans (resetByte_font _ a))
  · exact (hread a).trans ((if_neg (by omega)).trans (resetByte_zero _ hlow))
  · refine (hread (0x200 + k)).trans ((if_pos (Nat.le_add_right _ _)).trans ?_)
    rw [Nat.add_sub_cancel_left, List.getD_eq_getElem _ _ hk]
  · refine (hread a).trans ((if_pos (by omega)).trans ?_)
    rw [List.getD_eq_default _ _ (by omega), resetByte_zero _ (by omega)]
  · exact Vector.getElem_replicate ..
  · exact (readPixel_of_lt hk _).trans (congrArg _ (Display.cell_blank ⟨k, hk⟩))
  · exact Vector.getElem_replicate ..

/-- Settles O44: the length alone decides. -/
theorem resetRejectsLongImage : Obligations.ResetRejectsLongImage := by
  refine fun image s => ⟨fun hfits => ⟨_, rfl, ?_⟩, fun hlong => ?_⟩
  · rw [resetWith_of_fits hfits]
    rfl
  · rw [perform, resetWith_of_too_long hlong]
    exact haltsWith_takeFault _ _ rfl

/-- Settles O45: an empty image stores nothing, and a memory that lists nothing reads as the reset contents. -/
theorem resetStateIsEmptyImageReset : Obligations.ResetStateIsEmptyImageReset := by
  refine ⟨fun s hparams hrand hfree => ?_, rfl, rfl, rfl, fun a => resetByte_font _ a,
    fun a hlow _ => resetByte_zero _ hlow, by decide, by decide⟩
  rw [resetWith_of_fits (Nat.zero_le _), hparams, hrand, hfree]
  rfl

/-! ### The invariant at a reset and over the host's actions -/

theorem inv_resetWith (image : List Byte) (s : State) : (resetWith image s).Inv := by
  by_cases hfits : image.length ≤ 3584
  · rw [resetWith_of_fits hfits]
    have hbase : (0x200 : Word).toNat ≤ 0x10FE := by decide
    refine ⟨loadedMem_wf s.params hfits, Nat.zero_le 8, fun _ => (State.runningInv_iff _).mpr ?_⟩
    exact ⟨hbase, nofun, (State.stackFits_iff _).mpr fun _ _ => Nat.zero_le _, rfl, rfl⟩
  · rw [resetWith_of_too_long (Nat.lt_of_not_le hfits)]
    exact inv_takeFault _ _ s

/-- Settles O48: the reset state is what a reset leaves. -/
theorem invariantAtReset : Obligations.InvariantAtReset := by
  obtain ⟨hreset, -⟩ := resetStateIsEmptyImageReset
  have hinv := inv_resetWith [] State.reset
  rw [hreset State.reset rfl rfl rfl] at hinv
  exact hinv

/-- Settles O50: a reset establishes the invariant, a step keeps it, and it does not speak of KEYS. -/
theorem hostActionsKeepInvariant : Obligations.HostActionsKeepInvariant := by
  intro a s t hinv h
  cases a with
  | reset image => exact Host.Outcome.next.inj h ▸ inv_resetWith image s
  | step rand => exact stepWith_keeps_inv hinv h
  | setKeys k16 =>
    obtain rfl : setKeys k16 s = t := Host.Outcome.next.inj h
    exact hinv

/-! ### Ports -/

/-- The cells in index order are the rows joined. -/
theorem cells_eq_flatten (d : Display) : Display.cells d = (Vector.flatten d).toList := by
  rw [Display.cells, List.flatMap_def]
  simp only [Vector.flatten, Vector.toList_mk, Array.toList_flatten, Array.toList_map, List.map_map]
  rfl

/-- Settles O47: each port reads the field it names, and cell `k` of the joined rows is the `k`-th. -/
theorem portsReadTheState : Obligations.PortsReadTheState := by
  intro s
  refine ⟨fun k hk => readPixel_of_lt hk s, fun k hk => dif_neg (Nat.not_lt.mpr hk), ?_, fun k hk => ?_, rfl⟩
  · rw [readDisplay, cells_eq_flatten, Vector.length_toList]
  · rw [readDisplay, cells_eq_flatten, readPixel_of_lt hk, List.getD_eq_getElem _ _ (by simpa using hk)]
    exact congrArg _ (Vector.getElem_flatten (xss := s.disp) hk).symm

/-! ### Steps and ticks -/

/-- Settles O35: the fetch is in range, and the end of a cycle ticks exactly when no fault is recorded. -/
theorem stepRunsDecodedInstruction : Obligations.StepRunsDecodedInstruction := by
  intro rand s hrun hpc
  have hadv := pc_add_two_toNat (w := s.pc) (by omega)
  refine ⟨hadv, by omega, fun t ht => ?_, rfl⟩
  rw [stepWith_fetched rand hrun hpc]
  refine (congrArg closeCycle ht).trans ?_
  rw [closeCycle, endCycle, State.running]
  simp only [beq_iff_eq]

/-- Settles O37: a halted core's step answers its state, and SetKeys writes no fault status. -/
theorem haltedCoreStaysHalted : Obligations.HaltedCoreStaysHalted := by
  intro s hcode
  have hhalted (rand : Byte) : stepWith rand s = .next s :=
    stepWith_halted rand (by simpa [State.running] using hcode)
  refine ⟨hhalted, hhalted _, fun a t h ht => ?_⟩
  cases a with
  | reset image => exact ⟨image, rfl⟩
  | step rand =>
    obtain rfl := Host.Outcome.next.inj ((hhalted rand).symm.trans h)
    exact absurd ht hcode
  | setKeys k16 =>
    obtain rfl : setKeys k16 s = t := Host.Outcome.next.inj h
    exact absurd ht hcode

/-- One tick: CADENCE goes on by one modulo 10, and the timers go down where that starts again. -/
theorem timerTick_divides (s : State) :
    (timerTick s).cadence.val = (s.cadence.val + 1) % 10 ∧
      (timerTick s).dt.toNat = s.dt.toNat - (s.cadence.val + 1) / 10 ∧
      (timerTick s).st.toNat = s.st.toNat - (s.cadence.val + 1) / 10 := by
  by_cases hlt : s.cadence.val < 9
  · rw [timerTick_of_cadence_lt_nine hlt]
    simp only [State.setCadence_cadence, State.setCadence_dt, State.setCadence_st]
    omega
  · have hnine : s.cadence.val = 9 := by omega
    rw [timerTick_of_cadence_nine hnine, hnine]
    exact ⟨rfl, countDown_toNat s.dt, countDown_toNat s.st⟩

/-- Settles O41: by induction on the ticks, each of which divides by ten what the ticks before it left over. -/
theorem ticksDivideByTen : Obligations.TicksDivideByTen := by
  intro s k
  induction k with
  | zero =>
    change s.cadence.val = (s.cadence.val + 0) % 10 ∧ s.dt.toNat = s.dt.toNat - (s.cadence.val + 0) / 10 ∧
      s.st.toNat = s.st.toNat - (s.cadence.val + 0) / 10
    omega
  | succ k ih =>
    obtain ⟨hcad, hdt, hst⟩ := ih
    rw [Function.iterate_succ_apply']
    obtain ⟨hcad', hdt', hst'⟩ := timerTick_divides (timerTick^[k] s)
    omega

/-! ### Memory -/

/-- Settles O42: the fetch reads two of the bytes that were stored. -/
theorem storedBytesAreFetched : Obligations.StoredBytesAreFetched := by
  intro x s t k hwf hfit hexec hk hpc
  obtain ⟨-, hstore, -⟩ := storeRegsStoresRegisters x s
  obtain ⟨u, hu, hbyte, -⟩ := hstore hwf hfit
  obtain rfl := Host.Outcome.next.inj (hu.symm.trans hexec)
  have hnext : (k + 1).val = k.val + 1 := Fin.val_add_one_of_lt (lt_of_lt_of_le hk (Fin.le_last x))
  have hlow := hbyte k (Fin.le_of_lt hk)
  have hhigh := hbyte (k + 1) (by rw [Fin.le_def, hnext]; exact hk)
  have hk : k.val < x.val := hk
  rw [fetch_ok (by omega), hpc, hlow, Nat.add_assoc, ← hnext, hhigh]

theorem Memory.wfFrom_cons {base : Nat → Byte} {lo a : Nat} {v : Byte} {m : List Host.Cell} :
    Memory.wfFrom base lo ((a, v) :: m) = true ↔
      lo ≤ a ∧ a < 0x1000 ∧ v ≠ base a ∧ Memory.wfFrom base (a + 1) m = true := by
  simp only [Memory.wfFrom, Bool.and_eq_true, decide_eq_true_eq, and_assoc]
  exact Iff.rfl

/-- A canonical list that begins above another's first cell does not read alike there. -/
theorem Memory.read_ne_of_lt {base : Nat → Byte} {m m' : List Host.Cell} {lo lo' a : Nat} {v : Byte}
    (h : Memory.wfFrom base lo ((a, v) :: m) = true) (h' : Memory.wfFrom base lo' m' = true) (hlt : a < lo') :
    ∃ c < 0x1000, Memory.read base ((a, v) :: m) c ≠ Memory.read base m' c := by
  obtain ⟨-, ha, hv, -⟩ := Memory.wfFrom_cons.mp h
  refine ⟨a, ha, ?_⟩
  rwa [Memory.read, if_pos rfl, Memory.read_below h' hlt]

/-- Canonical lists with the same first address that read alike have the same first byte and read alike after it. -/
theorem Memory.read_tail_eq {base : Nat → Byte} {m m' : List Host.Cell} {a : Nat} {v w : Byte}
    (h : Memory.wfFrom base (a + 1) m = true) (h' : Memory.wfFrom base (a + 1) m' = true) {c : Nat}
    (hread : Memory.read base ((a, v) :: m) c = Memory.read base ((a, w) :: m') c) :
    Memory.read base m c = Memory.read base m' c := by
  by_cases hc : c = a
  · rw [hc, Memory.read_below h (Nat.lt_succ_self a), Memory.read_below h' (Nat.lt_succ_self a)]
  · rwa [Memory.read, if_neg hc, Memory.read, if_neg hc] at hread

/-- Canonical lists that read alike are equal: the first cell of each is the lowest address that does not read as the
reset contents. -/
theorem Memory.eq_of_wfFrom {base : Nat → Byte} {m m' : List Host.Cell} {lo lo' : Nat}
    (h : Memory.wfFrom base lo m = true) (h' : Memory.wfFrom base lo' m' = true)
    (hread : ∀ a, a < 0x1000 → Memory.read base m a = Memory.read base m' a) : m = m' := by
  induction m generalizing m' lo lo' with
  | nil =>
    match m' with
    | [] => rfl
    | (b, w) :: m' =>
      obtain ⟨c, hc, hne⟩ := Memory.read_ne_of_lt (m' := []) h' rfl (Nat.lt_succ_self b)
      exact absurd (hread c hc).symm hne
  | cons cell m ih =>
    obtain ⟨a, v⟩ := cell
    match m' with
    | [] =>
      obtain ⟨c, hc, hne⟩ := Memory.read_ne_of_lt (m' := []) h rfl (Nat.lt_succ_self a)
      exact absurd (hread c hc) hne
    | (b, w) :: m' =>
      obtain ⟨-, ha, hv, hm⟩ := Memory.wfFrom_cons.mp h
      obtain ⟨-, hb, hw, hm'⟩ := Memory.wfFrom_cons.mp h'
      rcases Nat.lt_trichotomy a b with hlt | rfl | hlt
      · obtain ⟨c, hc, hne⟩ := Memory.read_ne_of_lt h (Memory.wfFrom_cons.mpr ⟨le_refl b, hb, hw, hm'⟩) hlt
        exact absurd (hread c hc) hne
      · have hbyte := hread a ha
        rw [Memory.read, if_pos rfl, Memory.read, if_pos rfl] at hbyte
        rw [hbyte, ih hm hm' fun c hc => Memory.read_tail_eq hm hm' (hread c hc)]
      · obtain ⟨c, hc, hne⟩ := Memory.read_ne_of_lt h' (Memory.wfFrom_cons.mpr ⟨le_refl a, ha, hv, hm⟩) hlt
        exact absurd (hread c hc).symm hne

/-- Settles O58: canonical lists that read alike are equal. -/
theorem canonicalMemoryIsUnique : Obligations.CanonicalMemoryIsUnique := fun _ _ _ => Memory.eq_of_wfFrom

end Sys2Proof.Machine
